-- ==== Sys2Proof/Word.lean ====
section
/-! DEFINITION. Word.lean: the widths of the block's values (spec/00_scope.md R6, R8, R15): every
register and memory value is an unsigned number of a fixed width. -/

namespace Sys2Proof

/-- An 8-bit value: a general register, a timer, a memory byte, the immediate `kk` (R6, R15). -/
abbrev Byte := BitVec 8

/-- A 16-bit value: I, PC, a stack slot, an instruction word (R6). -/
abbrev Word := BitVec 16

/-- A 4-bit value: a register index `x` or `y`, a row count `n`, a key code (R15, R86). -/
abbrev Nibble := BitVec 4

/-- A 12-bit value: the address operand `nnn` (R15). -/
abbrev Addr12 := BitVec 12

end Sys2Proof
end

