-- ==== Sys2Proof/Syntax.lean ====
section
/-! DEFINITION. Syntax.lean: the 34 instructions of the base opcode table (spec/30_encoding.md R71,
spec/opcode_table.json), one constructor per row, named by the row's hexadecimal pattern as the spec
names it (R82). The operands are the fields the pattern names (R68), each of its own width. -/

namespace Sys2Proof

/-- One instruction of the base opcode table with its operand fields (R71). The `y` of 8xy6 and 8xyE is
decoded but not used (R74); it is kept, so that no bit of a word is lost. -/
inductive Instr where
  /-- clear screen (R134) -/
  | op00E0
  /-- return (R104) -/
  | op00EE
  /-- jump (R105) -/
  | op1nnn (nnn : Addr12)
  /-- call (R106) -/
  | op2nnn (nnn : Addr12)
  /-- skip if equal immediate (R107) -/
  | op3xkk (x : Nibble) (kk : Byte)
  /-- skip if not equal immediate (R108) -/
  | op4xkk (x : Nibble) (kk : Byte)
  /-- skip if registers equal (R109) -/
  | op5xy0 (x y : Nibble)
  /-- load immediate (R114) -/
  | op6xkk (x : Nibble) (kk : Byte)
  /-- add immediate (R115) -/
  | op7xkk (x : Nibble) (kk : Byte)
  /-- move (R116) -/
  | op8xy0 (x y : Nibble)
  /-- or (R117) -/
  | op8xy1 (x y : Nibble)
  /-- and (R118) -/
  | op8xy2 (x y : Nibble)
  /-- exclusive or (R119) -/
  | op8xy3 (x y : Nibble)
  /-- add with carry out (R120) -/
  | op8xy4 (x y : Nibble)
  /-- subtract, not-borrow (R121) -/
  | op8xy5 (x y : Nibble)
  /-- shift right (R122) -/
  | op8xy6 (x y : Nibble)
  /-- reverse subtract, not-borrow (R123) -/
  | op8xy7 (x y : Nibble)
  /-- shift left (R124) -/
  | op8xyE (x y : Nibble)
  /-- skip if registers not equal (R110) -/
  | op9xy0 (x y : Nibble)
  /-- load index (R126) -/
  | opAnnn (nnn : Addr12)
  /-- jump plus V0 (R111) -/
  | opBnnn (nnn : Addr12)
  /-- random and mask (R125) -/
  | opCxkk (x : Nibble) (kk : Byte)
  /-- draw sprite (R135); `n = 0` included (R77) -/
  | opDxyn (x y n : Nibble)
  /-- skip if key pressed (R146) -/
  | opEx9E (x : Nibble)
  /-- skip if key not pressed (R147) -/
  | opExA1 (x : Nibble)
  /-- read delay timer (R143) -/
  | opFx07 (x : Nibble)
  /-- wait for key (R148) -/
  | opFx0A (x : Nibble)
  /-- set delay timer (R144) -/
  | opFx15 (x : Nibble)
  /-- set sound timer (R145) -/
  | opFx18 (x : Nibble)
  /-- add to index (R127) -/
  | opFx1E (x : Nibble)
  /-- glyph address (R128) -/
  | opFx29 (x : Nibble)
  /-- store BCD (R129) -/
  | opFx33 (x : Nibble)
  /-- store registers V0 … V(x−1) (R130) -/
  | opFx55 (x : Nibble)
  /-- load registers V0 … V(x−1) (R131) -/
  | opFx65 (x : Nibble)
deriving DecidableEq, Repr

end Sys2Proof
end

