-- ==== Sys2Proof/WellFormed.lean ====
section
/-! DEFINITION. WellFormed.lean: which terms stand for something the block can be given.
An instruction's fields have the widths of R68 in their types, and every value of every field is valid
(spec/30_encoding.md R77: also `n = 0`), so no term of `Instr` is ill-formed (log entry 15). A program
image has the one check the spec states, its length (spec/70_reset_and_hazards.md R181). -/

namespace Sys2Proof

/-- Every `Instr` is an instruction of the base opcode table: the operand widths of R68 are its types. -/
def Instr.wellFormed : Instr → Bool := fun _ => true

/-- `MAX_PROGRAM_LEN`: the bytes from `PROGRAM_BASE` = 0x200 to the end of memory (R6). -/
def maxProgramLen : Nat := 4096 - 0x200

/-- The length check of `LoadProgram` (R181): a longer image is refused with `InvalidProgramLength`. -/
def programWellFormed (bytes : List Byte) : Bool := decide (bytes.length ≤ maxProgramLen)

end Sys2Proof
end

