-- ==== Sys2Proof/Decode.lean ====
section
/-! DEFINITION. Decode.lean: the field layout, the opcode table, the decoder and the encoder
(spec/30_encoding.md). Decoding depends on the word alone and is total (R81): a word no pattern matches is
rejected by name. -/

namespace Sys2Proof

/-! ## Bytes and fields -/

/-- The big-endian word of two consecutive bytes: the byte at the lower address holds bits 15:8 (R50). -/
def beWord (hi lo : Byte) : Word := hi ++ lo

/-- The two bytes of a word as memory holds them, the high byte first (R50). -/
def wordBytes (w : Word) : List Byte := [w.extractLsb' 8 8, w.extractLsb' 0 8]

/-- `g`, the group selector, w[15:12] (R68). -/
def fieldG (w : Word) : Nibble := w.extractLsb' 12 4

/-- `nnn`, the address operand, w[11:0] (R68). -/
def fieldNnn (w : Word) : Addr12 := w.extractLsb' 0 12

/-- `x`, the first register index, w[11:8] (R68). -/
def fieldX (w : Word) : Nibble := w.extractLsb' 8 4

/-- `y`, the second register index, w[7:4] (R68). -/
def fieldY (w : Word) : Nibble := w.extractLsb' 4 4

/-- `kk`, the immediate, w[7:0] (R68). -/
def fieldKk (w : Word) : Byte := w.extractLsb' 0 8

/-- `n`, the low nibble, w[3:0] (R68). -/
def fieldN (w : Word) : Nibble := w.extractLsb' 0 4

/-! ## The opcode table -/

/-- One row of spec/opcode_table.json: a word belongs to it when its bits under `mask` are `pattern`. -/
structure OpcodeRow where
  mnemonic : String
  pattern  : Word
  mask     : Word
deriving DecidableEq, Repr

/-- Does the row's pattern match the word? -/
def rowMatches (row : OpcodeRow) (w : Word) : Bool := (w &&& row.mask) == row.pattern

/-- The 34 rows of spec/opcode_table.json, in its order. -/
def opcodeTable : List OpcodeRow :=
  [⟨"00E0", 0x00E0#16, 0xFFFF#16⟩,
   ⟨"00EE", 0x00EE#16, 0xFFFF#16⟩,
   ⟨"1nnn", 0x1000#16, 0xF000#16⟩,
   ⟨"2nnn", 0x2000#16, 0xF000#16⟩,
   ⟨"3xkk", 0x3000#16, 0xF000#16⟩,
   ⟨"4xkk", 0x4000#16, 0xF000#16⟩,
   ⟨"5xy0", 0x5000#16, 0xF00F#16⟩,
   ⟨"6xkk", 0x6000#16, 0xF000#16⟩,
   ⟨"7xkk", 0x7000#16, 0xF000#16⟩] ++
  [⟨"8xy0", 0x8000#16, 0xF00F#16⟩,
   ⟨"8xy1", 0x8001#16, 0xF00F#16⟩,
   ⟨"8xy2", 0x8002#16, 0xF00F#16⟩,
   ⟨"8xy3", 0x8003#16, 0xF00F#16⟩,
   ⟨"8xy4", 0x8004#16, 0xF00F#16⟩,
   ⟨"8xy5", 0x8005#16, 0xF00F#16⟩,
   ⟨"8xy6", 0x8006#16, 0xF00F#16⟩,
   ⟨"8xy7", 0x8007#16, 0xF00F#16⟩,
   ⟨"8xyE", 0x800E#16, 0xF00F#16⟩] ++
  [⟨"9xy0", 0x9000#16, 0xF00F#16⟩,
   ⟨"Annn", 0xA000#16, 0xF000#16⟩,
   ⟨"Bnnn", 0xB000#16, 0xF000#16⟩,
   ⟨"Cxkk", 0xC000#16, 0xF000#16⟩,
   ⟨"Dxyn", 0xD000#16, 0xF000#16⟩,
   ⟨"Ex9E", 0xE09E#16, 0xF0FF#16⟩,
   ⟨"ExA1", 0xE0A1#16, 0xF0FF#16⟩,
   ⟨"Fx07", 0xF007#16, 0xF0FF#16⟩,
   ⟨"Fx0A", 0xF00A#16, 0xF0FF#16⟩] ++
  [⟨"Fx15", 0xF015#16, 0xF0FF#16⟩,
   ⟨"Fx18", 0xF018#16, 0xF0FF#16⟩,
   ⟨"Fx1E", 0xF01E#16, 0xF0FF#16⟩,
   ⟨"Fx29", 0xF029#16, 0xF0FF#16⟩,
   ⟨"Fx33", 0xF033#16, 0xF0FF#16⟩,
   ⟨"Fx55", 0xF055#16, 0xF0FF#16⟩,
   ⟨"Fx65", 0xF065#16, 0xF0FF#16⟩]

/-- The mnemonic, in spec/opcode_table.json, of the row a constructor stands for. -/
def mnemonicOf : Instr → String
  | .op00E0 => "00E0"
  | .op00EE => "00EE"
  | .op1nnn _ => "1nnn"
  | .op2nnn _ => "2nnn"
  | .op3xkk _ _ => "3xkk"
  | .op4xkk _ _ => "4xkk"
  | .op5xy0 _ _ => "5xy0"
  | .op6xkk _ _ => "6xkk"
  | .op7xkk _ _ => "7xkk"
  | .op8xy0 _ _ => "8xy0"
  | .op8xy1 _ _ => "8xy1"
  | .op8xy2 _ _ => "8xy2"
  | .op8xy3 _ _ => "8xy3"
  | .op8xy4 _ _ => "8xy4"
  | .op8xy5 _ _ => "8xy5"
  | .op8xy6 _ _ => "8xy6"
  | .op8xy7 _ _ => "8xy7"
  | .op8xyE _ _ => "8xyE"
  | .op9xy0 _ _ => "9xy0"
  | .opAnnn _ => "Annn"
  | .opBnnn _ => "Bnnn"
  | .opCxkk _ _ => "Cxkk"
  | .opDxyn _ _ _ => "Dxyn"
  | .opEx9E _ => "Ex9E"
  | .opExA1 _ => "ExA1"
  | .opFx07 _ => "Fx07"
  | .opFx0A _ => "Fx0A"
  | .opFx15 _ => "Fx15"
  | .opFx18 _ => "Fx18"
  | .opFx1E _ => "Fx1E"
  | .opFx29 _ => "Fx29"
  | .opFx33 _ => "Fx33"
  | .opFx55 _ => "Fx55"
  | .opFx65 _ => "Fx65"

/-! ## The decoder -/

/-- Why the decoder gives no instruction. -/
inductive Reject where
  /-- the word matches no pattern (R78): the cycle raises `Fatal(UnknownOpcode, word)` -/
  | unknownOpcode (w : Word)
  /-- fewer than the two bytes every instruction has (R67): never met by the cycle, which fetches two -/
  | truncated
deriving DecidableEq, Repr

/-- Group 0x0 selects on the whole word (R72). -/
def decodeGroup0 (w : Word) : Except Reject Instr :=
  if w = 0x00E0#16 then .ok .op00E0
  else if w = 0x00EE#16 then .ok .op00EE
  else .error (.unknownOpcode w)

/-- Group 0x5 needs a low nibble of 0 (R73; the spec's decision D10). -/
def decodeGroup5 (w : Word) : Except Reject Instr :=
  if fieldN w = 0x0#4 then .ok (.op5xy0 (fieldX w) (fieldY w)) else .error (.unknownOpcode w)

/-- Group 0x9 needs a low nibble of 0 (R73; the spec's decision D10). -/
def decodeGroup9 (w : Word) : Except Reject Instr :=
  if fieldN w = 0x0#4 then .ok (.op9xy0 (fieldX w) (fieldY w)) else .error (.unknownOpcode w)

/-- Group 0x8 selects on the low nibble (R74). -/
def decodeGroup8 (w : Word) : Except Reject Instr :=
  match fieldN w with
  | 0x0#4 => .ok (.op8xy0 (fieldX w) (fieldY w))
  | 0x1#4 => .ok (.op8xy1 (fieldX w) (fieldY w))
  | 0x2#4 => .ok (.op8xy2 (fieldX w) (fieldY w))
  | 0x3#4 => .ok (.op8xy3 (fieldX w) (fieldY w))
  | 0x4#4 => .ok (.op8xy4 (fieldX w) (fieldY w))
  | 0x5#4 => .ok (.op8xy5 (fieldX w) (fieldY w))
  | 0x6#4 => .ok (.op8xy6 (fieldX w) (fieldY w))
  | 0x7#4 => .ok (.op8xy7 (fieldX w) (fieldY w))
  | 0xE#4 => .ok (.op8xyE (fieldX w) (fieldY w))
  | _     => .error (.unknownOpcode w)

/-- Group 0xE selects on the low byte (R75). -/
def decodeGroupE (w : Word) : Except Reject Instr :=
  match fieldKk w with
  | 0x9E#8 => .ok (.opEx9E (fieldX w))
  | 0xA1#8 => .ok (.opExA1 (fieldX w))
  | _      => .error (.unknownOpcode w)

/-- Group 0xF selects on the low byte (R76). -/
def decodeGroupF (w : Word) : Except Reject Instr :=
  match fieldKk w with
  | 0x07#8 => .ok (.opFx07 (fieldX w))
  | 0x0A#8 => .ok (.opFx0A (fieldX w))
  | 0x15#8 => .ok (.opFx15 (fieldX w))
  | 0x18#8 => .ok (.opFx18 (fieldX w))
  | 0x1E#8 => .ok (.opFx1E (fieldX w))
  | 0x29#8 => .ok (.opFx29 (fieldX w))
  | 0x33#8 => .ok (.opFx33 (fieldX w))
  | 0x55#8 => .ok (.opFx55 (fieldX w))
  | 0x65#8 => .ok (.opFx65 (fieldX w))
  | _      => .error (.unknownOpcode w)

/-- The decoder (R70–R77): dispatch by the group selector, then by the group's own selector. The last arm
is never reached, since the sixteen groups above it are all there are. -/
def decode (w : Word) : Except Reject Instr :=
  match fieldG w with
  | 0x0#4 => decodeGroup0 w
  | 0x1#4 => .ok (.op1nnn (fieldNnn w))
  | 0x2#4 => .ok (.op2nnn (fieldNnn w))
  | 0x3#4 => .ok (.op3xkk (fieldX w) (fieldKk w))
  | 0x4#4 => .ok (.op4xkk (fieldX w) (fieldKk w))
  | 0x5#4 => decodeGroup5 w
  | 0x6#4 => .ok (.op6xkk (fieldX w) (fieldKk w))
  | 0x7#4 => .ok (.op7xkk (fieldX w) (fieldKk w))
  | 0x8#4 => decodeGroup8 w
  | 0x9#4 => decodeGroup9 w
  | 0xA#4 => .ok (.opAnnn (fieldNnn w))
  | 0xB#4 => .ok (.opBnnn (fieldNnn w))
  | 0xC#4 => .ok (.opCxkk (fieldX w) (fieldKk w))
  | 0xD#4 => .ok (.opDxyn (fieldX w) (fieldY w) (fieldN w))
  | 0xE#4 => decodeGroupE w
  | 0xF#4 => decodeGroupF w
  | _     => .error (.unknownOpcode w)

/-- The decoder on a byte sequence: it always consumes exactly two bytes (R67). -/
def decodeBytes : List Byte → Except Reject (Instr × List Byte)
  | hi :: lo :: rest =>
    match decode (beWord hi lo) with
    | .ok i    => .ok (i, rest)
    | .error e => .error e
  | _ => .error .truncated

/-- The instruction the decoder reads from a word given in the numbering of spec/opcode_table.json: the
low `nbits` bits of `w`, the bits above them 0, laid out as memory holds them. -/
def decodeTableWord (nbits w : Nat) : Option Instr :=
  match decodeBytes (wordBytes (BitVec.ofNat 16 (w % 2 ^ nbits))) with
  | .ok (i, _) => some i
  | .error _   => none

/-! ## The encoder -/

/-- A word from its four nibbles, bits 15…0: `[ g:4 | x:4 | y:4 | n:4 ]` (R68). -/
def wordOfXyn (g x y n : Nibble) : Word := g ++ x ++ y ++ n

/-- A word from its group, `x` and `kk` (R68). -/
def wordOfXkk (g x : Nibble) (kk : Byte) : Word := g ++ x ++ kk

/-- A word from its group and `nnn` (R68). -/
def wordOfNnn (g : Nibble) (nnn : Addr12) : Word := g ++ nnn

/-- The word of an instruction, from the patterns of R71 and the `encoding` column of
spec/opcode_table.json. -/
def encode : Instr → Word
  | .op00E0 => 0x00E0#16
  | .op00EE => 0x00EE#16
  | .op1nnn nnn => wordOfNnn 0x1#4 nnn
  | .op2nnn nnn => wordOfNnn 0x2#4 nnn
  | .op3xkk x kk => wordOfXkk 0x3#4 x kk
  | .op4xkk x kk => wordOfXkk 0x4#4 x kk
  | .op5xy0 x y => wordOfXyn 0x5#4 x y 0x0#4
  | .op6xkk x kk => wordOfXkk 0x6#4 x kk
  | .op7xkk x kk => wordOfXkk 0x7#4 x kk
  | .op8xy0 x y => wordOfXyn 0x8#4 x y 0x0#4
  | .op8xy1 x y => wordOfXyn 0x8#4 x y 0x1#4
  | .op8xy2 x y => wordOfXyn 0x8#4 x y 0x2#4
  | .op8xy3 x y => wordOfXyn 0x8#4 x y 0x3#4
  | .op8xy4 x y => wordOfXyn 0x8#4 x y 0x4#4
  | .op8xy5 x y => wordOfXyn 0x8#4 x y 0x5#4
  | .op8xy6 x y => wordOfXyn 0x8#4 x y 0x6#4
  | .op8xy7 x y => wordOfXyn 0x8#4 x y 0x7#4
  | .op8xyE x y => wordOfXyn 0x8#4 x y 0xE#4
  | .op9xy0 x y => wordOfXyn 0x9#4 x y 0x0#4
  | .opAnnn nnn => wordOfNnn 0xA#4 nnn
  | .opBnnn nnn => wordOfNnn 0xB#4 nnn
  | .opCxkk x kk => wordOfXkk 0xC#4 x kk
  | .opDxyn x y n => wordOfXyn 0xD#4 x y n
  | .opEx9E x => wordOfXkk 0xE#4 x 0x9E#8
  | .opExA1 x => wordOfXkk 0xE#4 x 0xA1#8
  | .opFx07 x => wordOfXkk 0xF#4 x 0x07#8
  | .opFx0A x => wordOfXkk 0xF#4 x 0x0A#8
  | .opFx15 x => wordOfXkk 0xF#4 x 0x15#8
  | .opFx18 x => wordOfXkk 0xF#4 x 0x18#8
  | .opFx1E x => wordOfXkk 0xF#4 x 0x1E#8
  | .opFx29 x => wordOfXkk 0xF#4 x 0x29#8
  | .opFx33 x => wordOfXkk 0xF#4 x 0x33#8
  | .opFx55 x => wordOfXkk 0xF#4 x 0x55#8
  | .opFx65 x => wordOfXkk 0xF#4 x 0x65#8

end Sys2Proof
end

