-- ==== Sys2Proof/Config.lean ====
section
/-! DEFINITION. Config.lean: the parameters the source leaves open (spec/00_scope.md R7, spec/10_state.md R44)
and the draw source of Cxkk. `FONT_ROM`, `TIMER_MODE` and `NOTIFY_MODE` are plain data, carried by the state
and changed by nothing (DESIGN CHOICE, log entry 1); `RND` is a constant without a body (log entry 2). -/

namespace Sys2Proof

/-- `TIMER_MODE` (R7; spec/92_eei_decisions.md D2): when the two timers tick. -/
inductive TimerMode where
  /-- one tick at the end of every completed cycle (R153) -/
  | perCycle
  /-- a tick only on a `TimerTick` transaction (R154) -/
  | external
deriving DecidableEq, Repr

/-- `NOTIFY_MODE` (R7; D20): which cells a Dxyn notifies the display of (R141). -/
inductive NotifyMode where
  /-- only the cells whose state changed -/
  | onChange
  /-- every cell of the sprite's box -/
  | touched
deriving DecidableEq, Repr

/-- `FONT_ROM` (R7, R36): 80 bytes, glyph `d` at bytes `5·d … 5·d+4`. -/
abbrev FontRom := Vector Byte 80

/-- The configuration, fixed for a run (R44). -/
structure Config where
  fontRom    : FontRom
  timerMode  : TimerMode
  notifyMode : NotifyMode
deriving DecidableEq, Repr

/-- `RND` (R7, R41, R180; D4): the byte of draw number `n`. It has no body, so that a claim about a Cxkk
holds whatever the draw is (log entry 2). -/
opaque Config.randomByte : Nat → Byte

end Sys2Proof
end

