-- ==== Sys2Proof/Machine/Font.lean ====
section
/-! DEFINITION. Machine/Font.lean: the default value of the parameter `FONT_ROM` (spec/10_state.md R37).
The source gives no glyph bytes; the spec takes them from general knowledge and marks them so
(PRESUMED, log entry 5; spec/92_eei_decisions.md D3, spec/93_implementation_defined.md G2). -/

namespace Sys2Proof

/-- The sixteen glyphs of R37, digits 0 to F in order, five bytes each. -/
def defaultGlyphs : List (List Byte) :=
  [[0xF0, 0x90, 0x90, 0x90, 0xF0],
   [0x20, 0x60, 0x20, 0x20, 0x70],
   [0xF0, 0x10, 0xF0, 0x80, 0xF0],
   [0xF0, 0x10, 0xF0, 0x10, 0xF0],
   [0x90, 0x90, 0xF0, 0x10, 0x10],
   [0xF0, 0x80, 0xF0, 0x10, 0xF0],
   [0xF0, 0x80, 0xF0, 0x90, 0xF0],
   [0xF0, 0x10, 0x20, 0x40, 0x40]] ++
  [[0xF0, 0x90, 0xF0, 0x90, 0xF0],
   [0xF0, 0x90, 0xF0, 0x10, 0xF0],
   [0xF0, 0x90, 0xF0, 0x90, 0x90],
   [0xE0, 0x90, 0xE0, 0x90, 0xE0],
   [0xF0, 0x80, 0x80, 0x80, 0xF0],
   [0xE0, 0x90, 0x90, 0x90, 0xE0],
   [0xF0, 0x80, 0xF0, 0x80, 0xF0],
   [0xF0, 0x80, 0xF0, 0x80, 0x80]]

/-- The default `FONT_ROM`: the glyphs contiguous from address 0 (R36, R37). -/
def defaultFontRom : FontRom := ⟨defaultGlyphs.flatten.toArray, by decide⟩

/-- The defaults of R7: the font of R37, `TIMER_MODE = PerCycle`, `NOTIFY_MODE = OnChange` (log entry 5). -/
def defaultConfig : Config :=
  { fontRom := defaultFontRom, timerMode := .perCycle, notifyMode := .onChange }

end Sys2Proof
end

