-- ==== Sys2Proof/Machine/State.lean ====
section
/-! DEFINITION. Machine/State.lean: every piece of state the spec gives the block (spec/10_state.md R42) as
plain data, the parameters fixed for a run (R44), two fields of the model's own (`draws`, `events`), and the
state after reset (R43). -/

namespace Sys2Proof.Machine

/-- The fatal error kinds that a cycle can raise (spec/60_exceptions.md R159, codes 1–6). `FontWrite` and
`KeyIndexOutOfRange` are the spec's own kinds (R164; D5, D15). -/
inductive FatalKind where
  /-- 2nnn with SP = 16 (R160) -/
  | stackOverflow
  /-- 00EE with SP = 0 (R161) -/
  | stackUnderflow
  /-- a fetch or a data access with a byte above 0xFFF (R162) -/
  | addressOutOfRange
  /-- a word no pattern matches (R163) -/
  | unknownOpcode
  /-- Fx33 or Fx55 with a byte below 0x050 (R49) -/
  | fontWrite
  /-- Ex9E or ExA1 with Vx > 0xF (R146, R147) -/
  | keyIndexOutOfRange
deriving DecidableEq, Repr

/-- The fault record (R40; the spec's decision D6): the kind, the PC of the cycle that faulted, the
instruction word (none when the fetch itself faulted) and the first out-of-range or protected address (for an
address fault, else none). The address is an unbounded integer (R51). -/
structure FaultRecord where
  kind : FatalKind
  pc   : Word
  word : Option Word
  addr : Option Nat
deriving DecidableEq, Repr

/-- `STATUS` (R38; the spec's decisions D6, D12, D13). A program cannot read it. -/
inductive Status where
  /-- cycles execute normally -/
  | run
  /-- Fx0A is blocked: its destination register, and the captured key code if there is one (R39) -/
  | wait (x : Nibble) (cap : Option Nibble)
  /-- a fatal error was raised; sticky until `Reset` (R100) -/
  | fault (record : FaultRecord)
  /-- the shutdown signal was taken (R170) -/
  | halt
deriving DecidableEq, Repr

/-- The output events (spec/40_cycle.md R87). -/
inductive Event where
  /-- blank the surface -/
  | clear
  /-- cell (x, y) now has the state `on` -/
  | setPixel (x : Fin 64) (y : Fin 32) (on : Bool)
  /-- publish the frame -/
  | present
  /-- the sound timer has reached 0 (R156) -/
  | toneEnd
deriving DecidableEq, Repr

/-- The framebuffer: 32 rows of 64 single-bit cells, row-major (R33). -/
abbrev Framebuffer := Vector (Vector Bool 64) 32

/-- The state of the block (R42). -/
structure State where
  /-- V0 … VF (R18) -/
  v      : Vector Byte 16
  /-- the index register I (R23) -/
  i      : Word
  /-- the program counter PC (R24) -/
  pc     : Word
  /-- `STACK[0]` … `STACK[15]` (R27) -/
  stack  : Vector Word 16
  /-- SP, the depth 0 … 16 (R28) -/
  sp     : Fin 17
  /-- the delay timer DT (R31) -/
  dt     : Byte
  /-- the sound timer ST (R32) -/
  st     : Byte
  /-- the framebuffer FB (R33) -/
  fb     : Framebuffer
  /-- the input latch KEY, true = pressed (R34) -/
  key    : Vector Bool 16
  /-- MEM (R35): the bytes that differ from their reset contents, by rising address (log entry 12) -/
  mem    : List Host.Cell
  /-- STATUS (R38) -/
  status : Status
  /-- the parameters, fixed for a run (R44; log entry 1) -/
  config : Config
  /-- the model's own: how many draws the run has taken (log entry 2) -/
  draws  : Nat
  /-- the model's own: the events the last transaction delivered, in order (R87; log entry 3) -/
  events : List Event
deriving DecidableEq, Repr

/-- Why a step stops the machine. There is no constructor: every error the spec names is an effect the spec
describes (STATUS becomes FAULT, R98), so it is a next state, and nothing the spec leaves open stops the
machine (log entry 4). By this type no step ends in a fault: SAFE, since nothing is proved of a stop. -/
inductive Fault where
deriving DecidableEq, Repr

/-- Why the model gives an instruction no meaning. -/
inductive Refusal where
  /-- raised by an arm of `exec` whose instruction has no meaning yet; no arm raises it now. SAFE: a refusal
  proves nothing of the hardware. -/
  | notModelled (mnemonic : String)
deriving DecidableEq, Repr

/-- The state right after the `Reset` transaction (R43, R178) under a configuration. `events` holds the one
`Clear` that reset emits (R178); `draws` is 0 (DESIGN CHOICE, log entry 2); memory lists nothing, so every
byte reads as its reset contents (log entry 12). -/
def State.resetWith (c : Config) : State :=
  { v := Vector.replicate 16 0#8
    i := 0#16
    pc := 0x200#16
    stack := Vector.replicate 16 0#16
    sp := 0
    dt := 0#8
    st := 0#8
    fb := Vector.replicate 32 (Vector.replicate 64 false)
    key := Vector.replicate 16 false
    mem := []
    status := .run
    config := c
    draws := 0
    events := [.clear] }

/-- The state right after reset under the default parameters of R7 (log entry 5). -/
def State.reset : State := State.resetWith defaultConfig

end Sys2Proof.Machine
end

