-- ==== Sys2Proof/Machine/Ops.lean ====
section
/-! DEFINITION. Machine/Ops.lean: the named operations over the state: field updates, registers, memory and
its checks, the return stack, the framebuffer cells, the latch, events, the end of an execute stage, and the
one operation by which a fatal error is taken. Its return: there is none (spec/60_exceptions.md R168); only
the `Reset` transaction of Machine/Ports.lean leaves FAULT. -/

namespace Sys2Proof.Machine

/-! ## Field updates -/

def State.setI (s : State) (a : Word) : State := { s with i := a }
def State.setPc (s : State) (a : Word) : State := { s with pc := a }
def State.setDt (s : State) (b : Byte) : State := { s with dt := b }
def State.setSt (s : State) (b : Byte) : State := { s with st := b }
def State.setFb (s : State) (f : Framebuffer) : State := { s with fb := f }
def State.setMem (s : State) (m : List Host.Cell) : State := { s with mem := m }
def State.setStatus (s : State) (q : Status) : State := { s with status := q }

/-! ## Registers -/

/-- VF, the flag register (R20). -/
def regVF : Nibble := 0xF#4

/-- `V[r]` (R9, R18). -/
def State.getV (s : State) (r : Nibble) : Byte := s.v[r.toNat]

/-- `V[r] <- b` (R9, R18): no register is hardwired. -/
def State.setV (s : State) (r : Nibble) (b : Byte) : State := { s with v := s.v.set r.toNat b }

/-- The values of V0 … V(n−1), V0 first (R130). -/
def State.firstRegs (s : State) (n : Nat) : List Byte :=
  (List.range n).map fun k => s.getV (BitVec.ofNat 4 k)

/-- Writes a list of bytes to V[k], V[k+1], …, in that order (R131). -/
def State.setRegsFrom (s : State) (k : Nat) : List Byte → State
  | [] => s
  | b :: bs => State.setRegsFrom (s.setV (BitVec.ofNat 4 k) b) (k + 1) bs

/-! ## Memory -/

/-- What an address holds after reset, and so what an unlisted address reads as (R43): `FONT_ROM` below
0x050, zero above. -/
def Memory.resetByte (font : FontRom) (a : Nat) : Byte :=
  if h : a < 80 then font[a] else 0#8

/-- The byte listed for an address, if there is one. -/
def Memory.lookup (a : Nat) : List Host.Cell → Option Byte
  | [] => none
  | c :: m => if c.1 = a then some c.2 else Memory.lookup a m

/-- The byte at an address: the listed byte, else the reset contents. -/
def Memory.read (font : FontRom) (m : List Host.Cell) (a : Nat) : Byte :=
  (Memory.lookup a m).getD (Memory.resetByte font a)

/-- Lists a byte for an address, at its place among the rising addresses. -/
def Memory.put (a : Nat) (b : Byte) : List Host.Cell → List Host.Cell
  | [] => [(a, b)]
  | c :: m =>
    if a < c.1 then (a, b) :: c :: m
    else if c.1 = a then (a, b) :: m
    else c :: Memory.put a b m

/-- Takes an address off the list. -/
def Memory.drop (a : Nat) (m : List Host.Cell) : List Host.Cell := m.filter fun c => c.1 != a

/-- Writes one byte and keeps the canonical form: a byte equal to the reset contents is not listed. -/
def Memory.write (font : FontRom) (m : List Host.Cell) (a : Nat) (b : Byte) : List Host.Cell :=
  if b = Memory.resetByte font a then Memory.drop a m else Memory.put a b m

/-- The canonical form: addresses strictly rising, all below 4096, none listed with its reset contents. -/
abbrev Memory.wf (font : FontRom) (m : List Host.Cell) : Prop :=
  m.Pairwise (fun c d => c.1 < d.1) ∧ ∀ c ∈ m, c.1 < 4096 ∧ c.2 ≠ Memory.resetByte font c.1

/-- Writes bytes at a, a+1, …, in that order. -/
def Memory.writeBytes (font : FontRom) (m : List Host.Cell) (a : Nat) : List Byte → List Host.Cell
  | [] => m
  | b :: bs => Memory.writeBytes font (Memory.write font m a b) (a + 1) bs

/-- `MEM[a]` (R9, R35). -/
def State.readByte (s : State) (a : Nat) : Byte := Memory.read s.config.fontRom s.mem a

/-- `MEM[a] … MEM[a+n−1]`, with no check. -/
def State.readBytes (s : State) (a : Nat) : Nat → List Byte
  | 0 => []
  | n + 1 => s.readByte a :: s.readBytes (a + 1) n

/-- Writes bytes at a, a+1, …, with no check. -/
def State.writeBytes (s : State) (a : Nat) (bs : List Byte) : State :=
  s.setMem (Memory.writeBytes s.config.fontRom s.mem a bs)

/-! ## Fatal errors -/

/-- What an instruction raises: `Fatal(kind, addr)` (R11). The rest of the record is the cycle's. -/
structure Fatal where
  kind : FatalKind
  addr : Option Nat
deriving DecidableEq, Repr

/-- The numeric code of a kind (R159; the numbers are the spec's own, D6). Code 0 means no fault. -/
def FatalKind.code : FatalKind → Nat
  | .stackOverflow => 1
  | .stackUnderflow => 2
  | .addressOutOfRange => 3
  | .unknownOpcode => 4
  | .fontWrite => 5
  | .keyIndexOutOfRange => 6

/-- TAKING A FATAL ERROR (R98, R167; the spec's decision D6): STATUS becomes FAULT with the record, its pc the
PC of the cycle, and nothing else changes. Every check stands before an instruction's first write (R98), so the
state it is applied to is the state at the start of the cycle. -/
def State.raiseFatal (s : State) (f : Fatal) (word : Option Word) : State :=
  s.setStatus (.fault { kind := f.kind, pc := s.pc, word := word, addr := f.addr })

/-- The range check (R52): the bytes a … a+n−1 must not pass 0xFFF; the address recorded is the first of the
range above 0xFFF. No byte, no check. -/
def rangeFault (a n : Nat) : Option Fatal :=
  if 0 < n ∧ 0xFFF < a + n - 1 then some ⟨.addressOutOfRange, some (max a 0x1000)⟩ else none

/-- The font check of a store (R49; the spec's decision D5): none of a … a+n−1 may be below 0x050; the address
recorded is the lowest such address. -/
def fontFault (a n : Nat) : Option Fatal :=
  if 0 < n ∧ a < 0x50 then some ⟨.fontWrite, some a⟩ else none

/-- The two checks of a store, the range first (R53, R166). -/
def storeFault (a n : Nat) : Option Fatal :=
  match rangeFault a n with
  | some f => some f
  | none   => fontFault a n

/-- `MemRead(a, n)` (R10): the check of the whole range, then the bytes. -/
def State.memRead (s : State) (a n : Nat) : Except Fatal (List Byte) :=
  match rangeFault a n with
  | some f => .error f
  | none   => .ok (s.readBytes a n)

/-- `MemWrite` of a run of bytes (R10): both checks of the whole range, then the bytes in order. -/
def State.memWrite (s : State) (a : Nat) (bs : List Byte) : Except Fatal State :=
  match storeFault a bs.length with
  | some f => .error f
  | none   => .ok (s.writeBytes a bs)

/-! ## The return stack -/

/-- `Push(a)` (R29): overflow at SP = 16, never a wrap. -/
def State.push (s : State) (a : Word) : Except Fatal State :=
  if h : s.sp.val < 16 then
    .ok { s with stack := s.stack.set s.sp.val a, sp := ⟨s.sp.val + 1, by omega⟩ }
  else .error ⟨.stackOverflow, none⟩

/-- `Pop()` (R29): underflow at SP = 0; the slot keeps its contents. -/
def State.pop (s : State) : Except Fatal (Word × State) :=
  if h : 0 < s.sp.val then
    .ok (s.stack[s.sp.val - 1], { s with sp := ⟨s.sp.val - 1, by omega⟩ })
  else .error ⟨.stackUnderflow, none⟩

/-! ## The framebuffer, the latch, the events -/

/-- `FB[y][x]` (R9, R33). -/
def Framebuffer.cell (f : Framebuffer) (x : Fin 64) (y : Fin 32) : Bool := f[y.val][x.val]

/-- `FB[y][x] <- b` (R9). -/
def Framebuffer.setCell (f : Framebuffer) (x : Fin 64) (y : Fin 32) (b : Bool) : Framebuffer :=
  f.set y.val (f[y.val].set x.val b)

/-- Every cell off (R33, R134). -/
def Framebuffer.blank : Framebuffer := Vector.replicate 32 (Vector.replicate 64 false)

/-- `KEY[k]` (R9, R34). -/
def State.keyAt (s : State) (k : Nibble) : Bool := s.key[k.toNat]

/-- `emit` (R11): appends events to the transaction's list. -/
def State.emit (s : State) (es : List Event) : State := { s with events := s.events ++ es }

/-- A transaction begins with an empty event list (R87). -/
def State.clearEvents (s : State) : State := { s with events := [] }

/-! ## The end of an execute stage -/

/-- The outcome type of the machine. -/
abbrev Result := Host.Outcome State Fault Refusal

/-- The end of an execute stage and the PC advance (R94, R95): `pcSet` says whether the instruction wrote PC
itself; if not, PC goes on by the two bytes of the instruction, modulo 2^16. -/
def finish (pcSet : Bool) (s : State) : Result :=
  .next (if pcSet then s else s.setPc (s.pc + 2#16))

/-- Goes on with the value of an operation that may raise a fatal error; if it raised one, the error is taken at
the state `s` the instruction `i` began in, with the instruction's word in the record (R98; log entry 10). -/
def orRaise {α : Type} (s : State) (i : Instr) (r : Except Fatal α) (k : α → Result) : Result :=
  match r with
  | .ok a    => k a
  | .error f => .next (s.raiseFatal f (some (encode i)))

end Sys2Proof.Machine
end

