-- ==== Sys2Proof/Machine/Operands.lean ====
section
/-! DEFINITION. Machine/Operands.lean: the operand forms of the base opcode table (spec/30_encoding.md R69): the
address operand, the effective address of a data access, the targets of jumps and skips, the key index, the
glyph address, and the digits Fx33 stores. -/

namespace Sys2Proof.Machine

/-- `zext_16(nnn)` (R69): the address operand as a PC or I value. -/
def addrOperand (nnn : Addr12) : Word := nnn.zeroExtend 16

/-- `zext_16(b)`: a register value in 16-bit arithmetic (R8). -/
def zext16 (b : Byte) : Word := b.zeroExtend 16

/-- `zext_8(k)`: a key code as a register value (R150). -/
def zext8 (k : Nibble) : Byte := k.zeroExtend 8

/-- The base address of a data access: I as an unbounded integer (R51). -/
def State.dataAddr (s : State) : Nat := s.i.toNat

/-- The target of Bnnn (R111): `u16(zext_16(nnn) + V[0])`, not masked to 12 bits. -/
def State.jumpTarget (s : State) (nnn : Addr12) : Word := addrOperand nnn + zext16 (s.getV 0x0#4)

/-- Where a skip goes (R25): PC+4 when taken, PC+2 when not. -/
def State.skipTarget (s : State) (taken : Bool) : Word := if taken then s.pc + 4#16 else s.pc + 2#16

/-- The end of a skip instruction: it sets PC itself (R94). -/
def skipIf (taken : Bool) (s : State) : Result := finish true (s.setPc (s.skipTarget taken))

/-- The latch slot a register value names (R146, R147): there is none above 0xF, and the instruction raises
`KeyIndexOutOfRange` (the spec's decision D15). -/
def keyIndex (b : Byte) : Except Fatal Nibble :=
  if 0xF < b.toNat then .error ⟨.keyIndexOutOfRange, none⟩ else .ok (b.setWidth 4)

/-- The glyph address of Fx29 (R128): `zext_16(5 * b)`, not masked (the spec's decision D14). -/
def glyphAddr (b : Byte) : Word := 5#16 * zext16 b

/-- The three BCD digits of a byte, hundreds first (R129). -/
def bcdDigits (b : Byte) : List Byte :=
  [BitVec.ofNat 8 (b.toNat / 100), BitVec.ofNat 8 (b.toNat / 10 % 10), BitVec.ofNat 8 (b.toNat % 10)]

end Sys2Proof.Machine
end

