-- ==== Sys2Proof/Machine/Cycle.lean ====
section
/-! DEFINITION. Machine/Cycle.lean: what a cycle does around the execute stage (spec/40_cycle.md): fetch, the timer tick, the
tone-end event, the cycles of a key wait, and the cycles that change nothing. -/

namespace Sys2Proof.Machine

/-! ## Fetch -/

/-- Fetch (R91): the range check of the two bytes at PC, then the big-endian word. No alignment (R54). -/
def State.fetch (s : State) : Except Fatal Word :=
  match rangeFault s.pc.toNat 2 with
  | some f => .error f
  | none   => .ok (beWord (s.readByte s.pc.toNat) (s.readByte (s.pc.toNat + 1)))

/-- A fetch that faults is taken with no word in the record (R91, R40). -/
def State.fetchFault (s : State) (f : Fatal) : State := s.raiseFatal f none

/-- A word no pattern matches raises `UnknownOpcode` with the word in the record (R92, R163). -/
def State.unknownOpcodeFault (s : State) (w : Word) : State := s.raiseFatal ⟨.unknownOpcode, none⟩ (some w)

/-! ## The timer unit -/

/-- One timer's tick: down by 1, clamped at 0 (R152). -/
def tickTimer (b : Byte) : Byte := if 0 < b.toNat then b - 1#8 else b

/-- One tick of the timer unit (R152). -/
def State.tick (s : State) : State := (s.setDt (tickTimer s.dt)).setSt (tickTimer s.st)

/-- The tick that ends a completed cycle in `TIMER_MODE = PerCycle` (R96, R153). -/
def State.cycleTick (s : State) : State :=
  match s.config.timerMode with
  | .perCycle => s.tick
  | .external => s

/-- `ToneEnd` (R156; the spec's decision D21): a transaction that began with ST ≠ 0 and ends with ST = 0 emits one,
as its last event. -/
def State.toneEnd (stBefore : Byte) (s : State) : State :=
  if stBefore ≠ 0#8 ∧ s.st = 0#8 then s.emit [.toneEnd] else s

/-! ## The end of a cycle -/

/-- The end of a cycle after the execute stage and the PC advance (R88, R153): a completed cycle, which left STATUS
at RUN, ticks; the first cycle of Fx0A and a faulting cycle do not. -/
def State.endCycle (stBefore : Byte) (t : State) : State :=
  match t.status with
  | .run      => t.cycleTick.toneEnd stBefore
  | .wait _ _ => t
  | .fault _  => t
  | .halt     => t

/-- `endCycle` on an outcome. -/
def endCycleResult (stBefore : Byte) : Result → Result
  | .next t    => .next (t.endCycle stBefore)
  | .fault f   => .fault f
  | .refused r => .refused r

/-! ## Cycles in the other statuses -/

/-- A cycle that changes nothing and delivers no event: in FAULT (R100), in HALT (R170), stalled in WAIT (R149). -/
def State.idleCycle (s : State) : State := s.clearEvents

/-- The completing cycle of Fx0A (R150; the spec's decision D12): the captured key goes to Vx, PC advances past the Fx0A,
STATUS is RUN again, and the cycle ticks. -/
def State.completeWait (s : State) (x k : Nibble) : State :=
  let t := ((s.clearEvents.setV x (zext8 k)).setPc (s.pc + 2#16)).setStatus .run
  t.cycleTick.toneEnd s.st

/-- A cycle in `WAIT(x, cap)` (R89): stalled until a key is captured. -/
def State.waitCycle (s : State) (x : Nibble) (cap : Option Nibble) : State :=
  match cap with
  | none   => s.idleCycle
  | some k => s.completeWait x k

end Sys2Proof.Machine
end

