-- ==== Sys2Proof/Machine/ControlFlow.lean ====
section
/-! DEFINITION. Machine/ControlFlow.lean: control transfer and the register skips (spec/41_control_flow.md). -/

namespace Sys2Proof.Machine

/-- 00EE (R104): the popped value is the address after the call; the advance is not added. -/
def exec00EE (s : State) : Result :=
  orRaise s .op00EE s.pop fun p => finish true (p.2.setPc p.1)

/-- 1nnn (R105). -/
def exec1nnn (nnn : Addr12) (s : State) : Result := finish true (s.setPc (addrOperand nnn))

/-- 2nnn (R106): the value pushed is PC + 2. -/
def exec2nnn (nnn : Addr12) (s : State) : Result :=
  orRaise s (.op2nnn nnn) (s.push (s.pc + 2#16)) fun t => finish true (t.setPc (addrOperand nnn))

/-- 3xkk (R107). -/
def exec3xkk (x : Nibble) (kk : Byte) (s : State) : Result := skipIf (s.getV x == kk) s

/-- 4xkk (R108). -/
def exec4xkk (x : Nibble) (kk : Byte) (s : State) : Result := skipIf (s.getV x != kk) s

/-- 5xy0 (R109). -/
def exec5xy0 (x y : Nibble) (s : State) : Result := skipIf (s.getV x == s.getV y) s

/-- 9xy0 (R110). -/
def exec9xy0 (x y : Nibble) (s : State) : Result := skipIf (s.getV x != s.getV y) s

/-- Bnnn (R111): always V0. -/
def execBnnn (nnn : Addr12) (s : State) : Result := finish true (s.setPc (s.jumpTarget nnn))

end Sys2Proof.Machine
end

