-- ==== Sys2Proof/Machine/Flags.lean ====
section
/-! DEFINITION. Machine/Flags.lean: every value an instruction writes to VF as a flag (spec/10_state.md R20), and the
order in which the flag and the result are written (R113). -/

namespace Sys2Proof.Machine

/-- A flag as VF holds it: 1 or 0. -/
def flagByte (b : Bool) : Byte := if b then 1#8 else 0#8

/-- Carry of 8xy4 (R120): the unmasked sum exceeds 255. -/
def carryOut (a b : Byte) : Bool := decide (255 < a.toNat + b.toNat)

/-- Not-borrow of a − b (8xy5, and 8xy7 with the operands exchanged; R121, R123): a > b, strictly. -/
def notBorrow (a b : Byte) : Bool := decide (b.toNat < a.toNat)

/-- The bit 8xy6 shifts out: bit 0 of the old Vx (R122). -/
def shiftedOutLow (a : Byte) : Bool := a.getLsbD 0

/-- The bit 8xyE shifts out: bit 7 of the old Vx (R124). -/
def shiftedOutHigh (a : Byte) : Bool := a.getLsbD 7

/-- Collision of one cell (R139): it was on and the sprite bit is 1. -/
def collides (old bit : Bool) : Bool := old && bit

/-- `V[x] <- r`, then `V[0xF] <- f` (8xy4; R113): for x = 0xF the flag remains. -/
def State.setResultThenFlag (s : State) (x : Nibble) (r : Byte) (f : Bool) : State :=
  (s.setV x r).setV regVF (flagByte f)

/-- `V[0xF] <- f`, then `V[x] <- r` (8xy5, 8xy6, 8xy7, 8xyE; R113): for x = 0xF the result remains. -/
def State.setFlagThenResult (s : State) (x : Nibble) (r : Byte) (f : Bool) : State :=
  (s.setV regVF (flagByte f)).setV x r

end Sys2Proof.Machine
end

