-- ==== Sys2Proof/Machine/Display.lean ====
section
/-! DEFINITION. Machine/Display.lean: the framebuffer, the sprite XOR-blit and the collision detector
(spec/44_display.md). -/

namespace Sys2Proof.Machine

/-- One cell of a sprite's box: the framebuffer cell it falls on and its sprite bit. -/
structure SpriteCell where
  x   : Fin 64
  y   : Fin 32
  bit : Bool
deriving DecidableEq, Repr

/-- `(ox + c) mod 64`: the column wraps per cell (R136). -/
def pixelX (ox : Byte) (c : Nat) : Fin 64 := ⟨(ox.toNat + c) % 64, Nat.mod_lt _ (by decide)⟩

/-- `(oy + r) mod 32`: the row wraps per cell (R136). -/
def pixelY (oy : Byte) (r : Nat) : Fin 32 := ⟨(oy.toNat + r) % 32, Nat.mod_lt _ (by decide)⟩

/-- `(row >> (7 − c)) & 1`: the most-significant bit is leftmost (R137). -/
def spriteBit (row : Byte) (c : Nat) : Bool := row.getLsbD (7 - c)

/-- The eight cells of sprite row `r`, by rising column (R135). -/
def rowCells (ox oy : Byte) (r : Nat) (row : Byte) : List SpriteCell :=
  (List.range 8).map fun c => ⟨pixelX ox c, pixelY oy r, spriteBit row c⟩

/-- The cells of the sprite rows from row number `r` on, in the order R135 visits them. -/
def spriteCells (ox oy : Byte) (r : Nat) : List Byte → List SpriteCell
  | [] => []
  | row :: rows => rowCells ox oy r row ++ spriteCells ox oy (r + 1) rows

/-- The blit as it goes: the framebuffer, whether a cell has been turned off, the notifications so far. -/
structure Blit where
  fb    : Framebuffer
  hit   : Bool
  notes : List Event
deriving DecidableEq, Repr

/-- Is a drawn cell notified (R141)? -/
def notifies (mode : NotifyMode) (old new : Bool) : Bool :=
  match mode with
  | .onChange => new != old
  | .touched  => true

/-- One cell of the blit (R135): XOR the bit in, note a collision, note the cell's new state. -/
def blitCell (mode : NotifyMode) (b : Blit) (c : SpriteCell) : Blit :=
  let old := Framebuffer.cell b.fb c.x c.y
  let new := old ^^ c.bit
  { fb := Framebuffer.setCell b.fb c.x c.y new
    hit := b.hit || collides old c.bit
    notes := if notifies mode old new then b.notes ++ [.setPixel c.x c.y new] else b.notes }

/-- The blit of a list of cells, in order (R135). -/
def blit (mode : NotifyMode) (f : Framebuffer) (cells : List SpriteCell) : Blit :=
  cells.foldl (blitCell mode) { fb := f, hit := false, notes := [] }

/-- 00E0 (R134): every cell off, and one `Clear`. -/
def exec00E0 (s : State) : Result := finish false ((s.setFb Framebuffer.blank).emit [.clear])

/-- Dxyn (R135): the origin is read before VF is written; the sprite rows are read whole before anything is
drawn; after the blit the notifications and one `Present` (R141). For n = 0 there are no rows (R140). -/
def execDxyn (x y n : Nibble) (s : State) : Result :=
  orRaise s (.opDxyn x y n) (s.memRead s.dataAddr n.toNat) fun rows =>
    let b := blit s.config.notifyMode s.fb (spriteCells (s.getV x) (s.getV y) 0 rows)
    finish false (((s.setFb b.fb).setV regVF (flagByte b.hit)).emit (b.notes ++ [.present]))

end Sys2Proof.Machine
end

