-- ==== Sys2Proof/Machine/IndexMemory.lean ====
section
/-! DEFINITION. Machine/IndexMemory.lean: the index register and the memory transfers (spec/43_index_memory.md). -/

namespace Sys2Proof.Machine

/-- Annn (R126). -/
def execAnnn (nnn : Addr12) (s : State) : Result := finish false (s.setI (addrOperand nnn))

/-- Fx1E (R127): modulo 2^16, no flag. -/
def execFx1E (x : Nibble) (s : State) : Result := finish false (s.setI (s.i + zext16 (s.getV x)))

/-- Fx29 (R128). -/
def execFx29 (x : Nibble) (s : State) : Result := finish false (s.setI (glyphAddr (s.getV x)))

/-- Fx33 (R129): three digits at I, I+1, I+2; I unchanged. -/
def execFx33 (x : Nibble) (s : State) : Result :=
  orRaise s (.opFx33 x) (s.memWrite s.dataAddr (bcdDigits (s.getV x))) fun t => finish false t

/-- Fx55 (R130): V0 … V(x−1) at I, I+1, …; for x = 0 nothing is stored and nothing is checked. -/
def execFx55 (x : Nibble) (s : State) : Result :=
  orRaise s (.opFx55 x) (s.memWrite s.dataAddr (s.firstRegs x.toNat)) fun t => finish false t

/-- Fx65 (R131): V0 … V(x−1) from I, I+1, …; for x = 0 nothing is loaded and nothing is checked. -/
def execFx65 (x : Nibble) (s : State) : Result :=
  orRaise s (.opFx65 x) (s.memRead s.dataAddr x.toNat) fun bs => finish false (s.setRegsFrom 0 bs)

end Sys2Proof.Machine
end

