-- ==== Sys2Proof/Machine/RegisterAlu.lean ====
section
/-! DEFINITION. Machine/RegisterAlu.lean: register loads, arithmetic, logic and the random byte
(spec/42_register_alu.md). Operands are read before anything is written (R113). -/

namespace Sys2Proof.Machine

/-- 6xkk (R114). -/
def exec6xkk (x : Nibble) (kk : Byte) (s : State) : Result := finish false (s.setV x kk)

/-- 7xkk (R115): wraps modulo 256, no carry. -/
def exec7xkk (x : Nibble) (kk : Byte) (s : State) : Result := finish false (s.setV x (s.getV x + kk))

/-- 8xy0 (R116). -/
def exec8xy0 (x y : Nibble) (s : State) : Result := finish false (s.setV x (s.getV y))

/-- 8xy1 (R117). -/
def exec8xy1 (x y : Nibble) (s : State) : Result := finish false (s.setV x (s.getV x ||| s.getV y))

/-- 8xy2 (R118). -/
def exec8xy2 (x y : Nibble) (s : State) : Result := finish false (s.setV x (s.getV x &&& s.getV y))

/-- 8xy3 (R119). -/
def exec8xy3 (x y : Nibble) (s : State) : Result := finish false (s.setV x (s.getV x ^^^ s.getV y))

/-- 8xy4 (R120): the result, then the carry. -/
def exec8xy4 (x y : Nibble) (s : State) : Result :=
  finish false (s.setResultThenFlag x (s.getV x + s.getV y) (carryOut (s.getV x) (s.getV y)))

/-- 8xy5 (R121): the flag, then the difference. -/
def exec8xy5 (x y : Nibble) (s : State) : Result :=
  finish false (s.setFlagThenResult x (s.getV x - s.getV y) (notBorrow (s.getV x) (s.getV y)))

/-- 8xy6 (R122): Vx is the source; Vy is not read. -/
def exec8xy6 (x _y : Nibble) (s : State) : Result :=
  finish false (s.setFlagThenResult x (s.getV x >>> 1) (shiftedOutLow (s.getV x)))

/-- 8xy7 (R123): Vy − Vx. -/
def exec8xy7 (x y : Nibble) (s : State) : Result :=
  finish false (s.setFlagThenResult x (s.getV y - s.getV x) (notBorrow (s.getV y) (s.getV x)))

/-- 8xyE (R124): Vx is the source; Vy is not read. -/
def exec8xyE (x _y : Nibble) (s : State) : Result :=
  finish false (s.setFlagThenResult x (s.getV x <<< 1) (shiftedOutHigh (s.getV x)))

/-- The next draw of `RND` and the state that has taken it (R41, R125; log entry 2). -/
def State.takeDraw (s : State) : Byte × State := (Config.randomByte s.draws, { s with draws := s.draws + 1 })

/-- Cxkk (R125): one fresh draw, masked with kk. -/
def execCxkk (x : Nibble) (kk : Byte) (s : State) : Result :=
  finish false (s.takeDraw.2.setV x (s.takeDraw.1 &&& kk))

end Sys2Proof.Machine
end

