-- ==== Sys2Proof/Machine/TimersInput.lean ====
section
/-! DEFINITION. Machine/TimersInput.lean: the timer instructions, the key skips and the key wait's first cycle
(spec/45_timers_input.md sections 1 to 3). -/

namespace Sys2Proof.Machine

/-- Fx07 (R143): DT as it stands before the cycle's tick. -/
def execFx07 (x : Nibble) (s : State) : Result := finish false (s.setV x s.dt)

/-- Fx15 (R144). -/
def execFx15 (x : Nibble) (s : State) : Result := finish false (s.setDt (s.getV x))

/-- Fx18 (R145). -/
def execFx18 (x : Nibble) (s : State) : Result := finish false (s.setSt (s.getV x))

/-- Ex9E (R146): skip if the key is down. -/
def execEx9E (x : Nibble) (s : State) : Result :=
  orRaise s (.opEx9E x) (keyIndex (s.getV x)) fun k => skipIf (s.keyAt k) s

/-- ExA1 (R147): skip if the key is up. -/
def execExA1 (x : Nibble) (s : State) : Result :=
  orRaise s (.opExA1 x) (keyIndex (s.getV x)) fun k => skipIf (!s.keyAt k) s

/-- Fx0A, first cycle (R148; the spec's decision D12): the core waits; no advance, so PC stays at the word. -/
def execFx0A (x : Nibble) (s : State) : Result := finish true (s.setStatus (.wait x none))

end Sys2Proof.Machine
end

