-- ==== Sys2Proof/Machine/Step.lean ====
section
/-! DEFINITION. Machine/Step.lean: one step is one `RunCycle` transaction (spec/40_cycle.md R88, R89). -/

namespace Sys2Proof.Machine

/-- A `RunCycle` in STATUS = RUN (R88): fetch, decode, execute and advance, tick. -/
def State.runCycle (s : State) : Host.Outcome State Fault Refusal :=
  match s.clearEvents.fetch with
  | .error f => .next (s.clearEvents.fetchFault f)
  | .ok w =>
    match decode w with
    | .error _ => .next (s.clearEvents.unknownOpcodeFault w)
    | .ok i    => endCycleResult s.st (exec i s.clearEvents)

/-- One step: one `RunCycle` (R88 in RUN, R89 in the other statuses). -/
def step (s : State) : Host.Outcome State Fault Refusal :=
  match s.status with
  | .run        => s.runCycle
  | .wait x cap => .next (s.waitCycle x cap)
  | .fault _    => .next s.idleCycle
  | .halt       => .next s.idleCycle

/-- The state with an instruction, given in the numbering of spec/opcode_table.json, stored where the next step fetches:
at PC, or at 0x200 where no fetch at PC is possible; with STATUS = RUN, without which no step fetches. It stands for the
host's `LoadProgram` (log entry 7), and writes memory without the checks of a store. -/
def State.withFetchWord (s : State) (nbits w : Nat) : State :=
  let pc : Word := if s.pc.toNat + 1 ≤ 0xFFF then s.pc else 0x200#16
  ((s.setStatus .run).setPc pc).writeBytes pc.toNat (wordBytes (BitVec.ofNat 16 (w % 2 ^ nbits)))

end Sys2Proof.Machine
end

