-- ==== Sys2Proof/Machine/Ports.lean ====
section
/-! DEFINITION. Machine/Ports.lean: the input transactions of the block and the values they return (spec/40_cycle.md
R86, R87, R101). Each is one function of the state, applied between cycles (spec/20_memory.md R58). -/

namespace Sys2Proof.Machine

/-- `result`, the value of a `RunCycle` (R101). -/
inductive CycleResult where
  | ok
  | waiting
  | fault (record : FaultRecord)
  | halted
deriving DecidableEq, Repr

/-- `load_result`, the value of a `LoadProgram` (R87). -/
inductive LoadResult where
  | ok
  | invalidProgramLength
deriving DecidableEq, Repr

/-- The input transactions (R86). -/
inductive Transaction where
  | reset
  | runCycle
  | setKey (code : Nibble) (pressed : Bool)
  | loadProgram (bytes : List Byte)
  | timerTick
  | shutdown
deriving DecidableEq, Repr

/-- What a transaction returns, beside its events. -/
inductive Response where
  | none
  | cycle (r : CycleResult)
  | load (r : LoadResult)
deriving DecidableEq, Repr

/-- `result` from the STATUS the cycle left (R101). -/
def cycleResult : Status → CycleResult
  | .run      => .ok
  | .wait _ _ => .waiting
  | .fault r  => .fault r
  | .halt     => .halted

/-- The numeric fault code of a state (R159): 0 means no fault. -/
def State.faultCode (s : State) : Nat :=
  match s.status with
  | .fault r  => r.kind.code
  | .run      => 0
  | .wait _ _ => 0
  | .halt     => 0

/-- `Reset` (R178): every piece of state at its reset value, accepted in every STATUS. The configuration is kept (R44), and
so is the count of draws, since reset does not constrain the draws to come (R180; log entry 13). -/
def State.resetPort (s : State) : State := { State.resetWith s.config with draws := s.draws }

/-- `SetKey(code, pressed)` (R157) with the edge capture of a waiting core (R158; the spec's decision D12). -/
def State.setKey (s : State) (code : Nibble) (pressed : Bool) : State :=
  let t := { s with key := s.key.set code.toNat pressed, events := [] }
  match s.status with
  | .wait x none     => if pressed && !s.keyAt code then t.setStatus (.wait x (some code)) else t
  | .wait _ (some _) => t
  | .run             => t
  | .fault _         => t
  | .halt            => t

/-- `load_result` (R181). -/
def loadResult (bytes : List Byte) : LoadResult :=
  if programWellFormed bytes then .ok else .invalidProgramLength

/-- `LoadProgram(bytes)` (R181, R66): the bytes at 0x200 …, or nothing when they are too many. -/
def State.loadProgram (s : State) (bytes : List Byte) : State :=
  match loadResult bytes with
  | .ok                   => s.clearEvents.writeBytes 0x200 bytes
  | .invalidProgramLength => s.clearEvents

/-- `TimerTick` (R154): ignored in `PerCycle` (R153); in `External` one tick, in RUN and WAIT. -/
def State.timerTick (s : State) : State :=
  match s.config.timerMode with
  | .perCycle => s.clearEvents
  | .external =>
    match s.status with
    | .run      => s.clearEvents.tick.toneEnd s.st
    | .wait _ _ => s.clearEvents.tick.toneEnd s.st
    | .fault _  => s.clearEvents
    | .halt     => s.clearEvents

/-- `Shutdown` (R170; the spec's decision D13): HALT, but a fault is kept. -/
def State.shutdown (s : State) : State :=
  match s.status with
  | .fault _  => s.clearEvents
  | .run      => s.clearEvents.setStatus .halt
  | .wait _ _ => s.clearEvents.setStatus .halt
  | .halt     => s.clearEvents.setStatus .halt

/-- One transaction (R85, R86). `state_view` (R87) is the state itself; `dt_out` and `st_out` are its fields `dt` and `st`; the
events it delivered are its field `events`. -/
def transact (t : Transaction) (s : State) : Result :=
  match t with
  | .reset               => .next s.resetPort
  | .runCycle            => step s
  | .setKey code pressed => .next (s.setKey code pressed)
  | .loadProgram bytes   => .next (s.loadProgram bytes)
  | .timerTick           => .next s.timerTick
  | .shutdown            => .next s.shutdown

/-- The value a transaction returns, from the state it left (R87, R101). -/
def response (t : Transaction) (after : State) : Response :=
  match t with
  | .runCycle          => .cycle (cycleResult after.status)
  | .loadProgram bytes => .load (loadResult bytes)
  | .reset             => .none
  | .setKey _ _        => .none
  | .timerTick         => .none
  | .shutdown          => .none

/-- The observation of a run (R102): the state after its last transaction, and the event list of every transaction, the first
transaction's first. -/
structure Observation where
  state      : State
  eventLists : List (List Event)
deriving DecidableEq, Repr

/-- Puts the event list of an earlier transaction before those observed after it. -/
def Observation.cons (es : List Event) (o : Observation) : Observation := { o with eventLists := es :: o.eventLists }

/-- A finite sequence of transactions from a state, and what is observed of it (R102). -/
def runTransactions : List Transaction → State → Host.Outcome Observation Fault Refusal
  | [], s => .next { state := s, eventLists := [] }
  | t :: ts, s =>
    match transact t s with
    | .fault f   => .fault f
    | .refused r => .refused r
    | .next s'   =>
      match runTransactions ts s' with
      | .next o    => .next (o.cons s'.events)
      | .fault f   => .fault f
      | .refused r => .refused r

/-- A run: a finite sequence of transactions from `Reset` (R102), which is accepted in every state (R178). -/
def runFromReset (ts : List Transaction) (s : State) : Host.Outcome Observation Fault Refusal :=
  runTransactions (.reset :: ts) s

end Sys2Proof.Machine
end

