-- ==== Sys2Proof/Safety.lean ====
section
/-! DEFINITION. Safety.lean: the terms claims are stated in: what two states agree on, the invariants of a
run, and what a sprite draws, said without the blit's own loop. -/

namespace Sys2Proof.Machine

/-! ## Frames -/

/-- The pieces of the state (spec/10_state.md R42), and the model's own fields. -/
inductive Part where
  | v | i | pc | stack | dt | st | fb | key | mem | status | config | draws | events
deriving DecidableEq, Repr

/-- Two states agree on a piece. Registers, cells, keys and memory are compared as they are read. -/
def Part.same (p : Part) (s t : State) : Prop :=
  match p with
  | .v      => ∀ r, t.getV r = s.getV r
  | .i      => t.i = s.i
  | .pc     => t.pc = s.pc
  | .stack  => t.sp = s.sp ∧ t.stack = s.stack
  | .dt     => t.dt = s.dt
  | .st     => t.st = s.st
  | .fb     => ∀ x y, Framebuffer.cell t.fb x y = Framebuffer.cell s.fb x y
  | .key    => ∀ k, t.keyAt k = s.keyAt k
  | .mem    => ∀ a, t.readByte a = s.readByte a
  | .status => t.status = s.status
  | .config => t.config = s.config
  | .draws  => t.draws = s.draws
  | .events => t.events = s.events

/-- From `s` to `t` nothing changed but, perhaps, the pieces listed. -/
def changesOnly (parts : List Part) (s t : State) : Prop := ∀ p, p ∉ parts → p.same s t

/-- Every byte of memory outside a … a+n−1 reads as before. -/
def memSameOutside (a n : Nat) (s t : State) : Prop :=
  ∀ b, b < a ∨ a + n ≤ b → t.readByte b = s.readByte b

/-- PC has gone on by `n`, modulo 2^16 (R26). -/
def pcAdvanced (n : Nat) (s t : State) : Prop := t.pc.toNat = (s.pc.toNat + n) % 65536

/-! ## Invariants -/

/-- No fatal error has been raised: what a safe run keeps. -/
def State.unfaulted (s : State) : Prop := ∀ r, s.status ≠ .fault r

/-- Memory is in its canonical form, and the font bytes are those of `FONT_ROM` (R49: "font bytes never change"). -/
def State.memoryIntact (s : State) : Prop :=
  Memory.wf s.config.fontRom s.mem ∧ ∀ a, (h : a < 80) → s.readByte a = s.config.fontRom[a]

/-- How far PC can get (R26): at most 0x10FE, the largest target of Bnnn; a waiting core stands at an address a cycle has
fetched from; every stack slot is at most 0x1000, the largest address a call can push (R104). -/
def State.pcBounded (s : State) : Prop :=
  s.pc.toNat ≤ 0x10FE ∧ (∀ k : Fin 16, s.stack[k].toNat ≤ 0x1000) ∧
    ∀ x cap, s.status = .wait x cap → s.pc.toNat ≤ 0xFFE

/-! ## Sprites -/

/-- Dxyn at `s` draws a 1 on cell (px, py): some row r < n and column c < 8 of the sprite at I falls there, wrapped
(R136), and bit 7 − c of its byte is 1 (R137). -/
def spriteOn (s : State) (x y n : Nibble) (px : Fin 64) (py : Fin 32) : Prop :=
  ∃ r c : Nat, r < n.toNat ∧ c < 8 ∧ px.val = ((s.getV x).toNat + c) % 64 ∧ py.val = ((s.getV y).toNat + r) % 32 ∧
    (s.readByte (s.i.toNat + r)).getLsbD (7 - c) = true

/-- The cells of the sprite's box in the order R135 visits them, row by row, with their sprite bits. -/
def spriteBox (s : State) (x y n : Nibble) : List (Fin 64 × Fin 32 × Bool) :=
  (List.range n.toNat).flatMap fun r =>
    (List.range 8).map fun c =>
      (Fin.ofNat 64 ((s.getV x).toNat + c), Fin.ofNat 32 ((s.getV y).toNat + r),
        (s.readByte (s.i.toNat + r)).getLsbD (7 - c))

/-- The range check of a sprite read passes (R52): no byte for n = 0, else none above 0xFFF. -/
def spriteInRange (s : State) (n : Nibble) : Prop := n.toNat = 0 ∨ s.i.toNat + n.toNat - 1 ≤ 0xFFF

/-- The word the next cycle in STATUS = RUN fetches (R50, R91). -/
def State.nextWord (s : State) : Word := s.readByte s.pc.toNat ++ s.readByte (s.pc.toNat + 1)

/-- The next cycle fetches in range and its word decodes to `i` (R88, R91, R92). -/
def State.runsNext (s : State) (i : Instr) : Prop :=
  s.status = .run ∧ s.pc.toNat + 1 ≤ 0xFFF ∧ decode s.nextWord = .ok i

end Sys2Proof.Machine
end

