-- ==== Sys2Proof/Certificates/Slice0/Obligations.lean ====
section
/-! DEFINITION. Certificates/Slice0/Obligations.lean: the statements about the machine, for the provers. Where a clause
rests on one of the spec's own decisions (spec/92_eei_decisions.md D<n>) or on a choice of the model (notes/assumptions), the
docstring says so. -/

open Sys2Proof Sys2Proof.Machine

/-! ## Encoding -/

/-- Words written bit by bit from the encodings of R71 and spec/opcode_table.json, one or more per family, decode to the
instructions they stand for; words of the vectors V-E1 to V-E7 are rejected by name (that 0x5011 is among them is the spec's
decision D10, log entry 20). -/
def Obligations.WrittenWordsDecode : Prop :=
  decode 0b0000000011100000#16 = .ok .op00E0 ∧
  decode 0b0000000011101110#16 = .ok .op00EE ∧
  decode 0b0010001100000000#16 = .ok (.op2nnn 0x300#12) ∧
  decode 0b0101000100100000#16 = .ok (.op5xy0 0x1#4 0x2#4) ∧
  decode 0b0111000000000101#16 = .ok (.op7xkk 0x0#4 0x05#8) ∧
  decode 0b1000111100011110#16 = .ok (.op8xyE 0xF#4 0x1#4) ∧
  decode 0b1010001011110000#16 = .ok (.opAnnn 0x2F0#12) ∧
  decode 0b1101101111000101#16 = .ok (.opDxyn 0xB#4 0xC#4 0x5#4) ∧
  decode 0b1110010110100001#16 = .ok (.opExA1 0x5#4) ∧
  decode 0b1111101000110011#16 = .ok (.opFx33 0xA#4) ∧
  decode 0x0123#16 = .error (.unknownOpcode 0x0123#16) ∧
  decode 0x5011#16 = .error (.unknownOpcode 0x5011#16) ∧
  decode 0x8018#16 = .error (.unknownOpcode 0x8018#16) ∧
  decode 0xE09F#16 = .error (.unknownOpcode 0xE09F#16) ∧
  decode 0xF0FF#16 = .error (.unknownOpcode 0xF0FF#16)

/-- Decoding the word of any instruction gives the instruction back, every operand at every value (R68, R71). -/
def Obligations.DecodeInvertsEncode : Prop :=
  ∀ i : Instr, i.wellFormed = true → decode (encode i) = .ok i

/-- No two words decode to one instruction, and no bit of a decoded word is lost: the word is the instruction's own
encoding (R68, R80). -/
def Obligations.EncodeInvertsDecode : Prop :=
  ∀ (w : Word) (i : Instr), decode w = .ok i → encode i = w

/-- The decoder follows the opcode table: an instruction it gives is of a row that matches the word; a word that a row matches is
accepted, as an instruction of that row; a word that no row matches is rejected by name, and no other word is; no word matches
two rows (R71, R78, R80, R81; the strict rows 5xy0 and 9xy0 and the row Dxyn with n = 0 are the spec's decisions D10 and D11,
log entries 20 and 21). -/
def Obligations.DecoderFollowsOpcodeTable : Prop :=
  (∀ (w : Word) (i : Instr), decode w = .ok i →
    ∃ row ∈ opcodeTable, row.mnemonic = mnemonicOf i ∧ rowMatches row w = true) ∧
  (∀ w : Word, ∀ row ∈ opcodeTable, rowMatches row w = true → ∃ i, decode w = .ok i ∧ mnemonicOf i = row.mnemonic) ∧
  (∀ w : Word, (∀ row ∈ opcodeTable, rowMatches row w = false) ↔ decode w = .error (.unknownOpcode w)) ∧
  (∀ w : Word, ∀ p ∈ opcodeTable, ∀ q ∈ opcodeTable, rowMatches p w = true → rowMatches q w = true → p = q)

/-! ## The cycle -/

/-- A step at a state in RUN whose next word decodes to `i` is exec of `i` there, with the event list emptied before it, and
after it, when STATUS is still RUN, the tick of `TIMER_MODE = PerCycle` and the tone-end event (R88 to R96, R156; when the
tick comes and when the tone ends are the spec's decisions D2 and D21; the event list is the model's, log entry 3). -/
def Obligations.StepRunsDecodedInstruction : Prop :=
  ∀ (s : State) (i : Instr), s.runsNext i →
    (∀ t, exec i { s with events := [] } = .next t → t.status = .run →
      step s = .next (State.toneEnd s.st (if t.config.timerMode = .perCycle then t.tick else t))) ∧
    (∀ t, exec i { s with events := [] } = .next t → t.status ≠ .run → step s = .next t)

/-- A cycle that cannot fetch, and a cycle whose word no row of the opcode table matches, raise AddressOutOfRange and
UnknownOpcode: STATUS becomes FAULT with the record, and nothing else changes (R91, R92, R163; that a PC past 0xFFE faults and
does not wrap is the spec's decisions D17 and D18, log entries 27 and 28; the record and that nothing is committed are its
decision D6, log entry 8). -/
def Obligations.FetchAndDecodeFaults : Prop :=
  ∀ s : State, s.status = .run →
    (0xFFF < s.pc.toNat + 1 →
      step s = .next { s with
        status := .fault ⟨.addressOutOfRange, s.pc, none, some (max s.pc.toNat 0x1000)⟩, events := [] }) ∧
    (s.pc.toNat + 1 ≤ 0xFFF → (∀ row ∈ opcodeTable, rowMatches row s.nextWord = false) →
      step s = .next { s with status := .fault ⟨.unknownOpcode, s.pc, some s.nextWord, none⟩, events := [] })

/-- Every fatal error is precise: a cycle that ends in FAULT has changed nothing but STATUS, has delivered no event, and its
record holds the PC of the cycle and the word fetched, none exactly when the fetch was out of range; the cycle returns
Fault with that record (R98, R40, R101; the spec's decision D6, log entry 8; the result is a value of its decision D1). -/
def Obligations.FaultingCycleCommitsNothing : Prop :=
  ∀ (s t : State) (r : FaultRecord), s.status = .run → step s = .next t → t.status = .fault r →
    t = { s with status := .fault r, events := [] } ∧ r.pc = s.pc ∧
    r.word = (if s.pc.toNat + 1 ≤ 0xFFF then some s.nextWord else none) ∧
    response .runCycle t = .cycle (.fault r)

/-- Which fatal error an execute stage that faults has raised: of each kind, exactly the instructions and the conditions that raise
it; a record holds an address exactly for the two address faults (R159 to R162, R52; the kinds FontWrite and
KeyIndexOutOfRange are the spec's decisions D5 and D15, log entries 17 and 25; the record is D6, log entry 8; that addresses do
not wrap is D18, log entry 28; that Dxy0 checks nothing is D11, log entry 21). -/
def Obligations.FatalKindsAndTheirCauses : Prop :=
  ∀ (i : Instr) (s t : State) (r : FaultRecord), s.unfaulted → exec i s = .next t → t.status = .fault r →
    (r.kind = .stackOverflow ↔ (∃ nnn, i = .op2nnn nnn) ∧ s.sp = 16) ∧
    (r.kind = .stackUnderflow ↔ i = .op00EE ∧ s.sp = 0) ∧
    (r.kind = .addressOutOfRange ↔
      (∃ x y n, i = .opDxyn x y n ∧ 0 < n.toNat ∧ 0xFFF < s.dataAddr + n.toNat - 1) ∨
      (∃ x, i = .opFx33 x ∧ 0xFFF < s.dataAddr + 2) ∨
      (∃ x, (i = .opFx55 x ∨ i = .opFx65 x) ∧ 0 < x.toNat ∧ 0xFFF < s.dataAddr + x.toNat - 1)) ∧
    (r.kind = .fontWrite ↔ (∃ x, i = .opFx33 x ∨ (i = .opFx55 x ∧ 0 < x.toNat)) ∧ s.dataAddr < 0x50) ∧
    (r.kind = .keyIndexOutOfRange ↔ ∃ x, (i = .opEx9E x ∨ i = .opExA1 x) ∧ 0xF < (s.getV x).toNat) ∧
    r.kind ≠ .unknownOpcode ∧
    (r.addr.isSome = true ↔ r.kind = .addressOutOfRange ∨ r.kind = .fontWrite)

/-- In FAULT, in HALT, and in a key wait with nothing captured, a cycle changes nothing and delivers no event, and it returns
Fault(rec), Halted and Waiting (R100, R170, R149, R101; the spec's decisions D6, D13, D12). -/
def Obligations.IdleCyclesChangeNothing : Prop :=
  ∀ s : State,
    (∀ r, s.status = .fault r → step s = .next { s with events := [] } ∧
      response .runCycle { s with events := [] } = .cycle (.fault r)) ∧
    (s.status = .halt → step s = .next { s with events := [] } ∧
      response .runCycle { s with events := [] } = .cycle .halted) ∧
    (∀ x, s.status = .wait x none → step s = .next { s with events := [] } ∧
      response .runCycle { s with events := [] } = .cycle .waiting)

/-- FAULT is sticky with its record, and HALT is left by nothing but Reset, whatever the transaction (R100, R168, R170; the
spec's decisions D6 and D13). -/
def Obligations.OnlyResetLeavesFaultOrHalt : Prop :=
  ∀ (x : Transaction) (s t : State), x ≠ .reset → transact x s = .next t →
    (∀ r, s.status = .fault r → t.status = .fault r) ∧ (s.status = .halt → t.status = .halt)

/-- Every step answers a next state: no word, no operand and no state stops the machine (R81, R98, R102; that a fatal error is
a next state is the model's reading, log entry 4). -/
def Obligations.EveryStepAnswersNext : Prop := ∀ s : State, ∃ t, step s = .next t

/-- Every run of transactions answers an observation: one event list for each transaction, in order, each the list that
transaction delivered, and the state after the last one; a run goes on as the run of its remaining transactions from the state
the earlier ones left, and begins with Reset, whose list is one Clear (R102, R87, R178; the transaction set is the spec's decision D1, log entry 11). -/
def Obligations.RunObservesEveryEventList : Prop :=
  (∀ s : State, runTransactions [] s = .next ⟨s, []⟩) ∧
  (∀ (x : Transaction) (s : State), ∃ t, transact x s = .next t ∧ runTransactions [x] s = .next ⟨t, [t.events]⟩) ∧
  (∀ (xs ys : List Transaction) (s : State), ∃ o, runTransactions xs s = .next o ∧ o.eventLists.length = xs.length ∧
    ∃ p, runTransactions ys o.state = .next p ∧
      runTransactions (xs ++ ys) s = .next ⟨p.state, o.eventLists ++ p.eventLists⟩) ∧
  (∀ (xs : List Transaction) (s : State), ∃ o, runTransactions xs s.resetPort = .next o ∧
    runFromReset xs s = .next ⟨o.state, [.clear] :: o.eventLists⟩)

/-- A program stops by a jump to itself: from a 1nnn that stands at nnn, any number of cycles leaves STATUS at RUN and changes
nothing but the timers and the events (R102, R105, which the spec derives; that the timers may tick is the spec's decision D2). -/
def Obligations.JumpToItselfRunsForever : Prop :=
  ∀ (k : Nat) (s : State) (nnn : Addr12), s.runsNext (.op1nnn nnn) → s.pc.toNat = nnn.toNat →
    ∃ o, runTransactions (List.replicate k .runCycle) s = .next o ∧ o.state.status = .run ∧
      changesOnly [.dt, .st, .events] s o.state

/-! ## Invariants -/

/-- The canonical form of memory and the font bytes are kept by every step and by every transaction, from every state that has
them (R49 "font bytes never change"; that a store into the font faults is the spec's decision D5). -/
def Obligations.MemoryStaysIntact : Prop :=
  (∀ s t : State, s.memoryIntact → step s = .next t → t.memoryIntact) ∧
  (∀ (x : Transaction) (s t : State), s.memoryIntact → transact x s = .next t → t.memoryIntact)

/-- PC never passes 0x10FE, from every state that meets the bound, over every step and every transaction (R26 "no sequence of
instructions of the base opcode table can take PC past 0x1102", with the tighter bound of R111; the unmasked 16-bit PC is the
spec's decision D17, the pushed PC + 2 is D8). -/
def Obligations.PcStaysBounded : Prop :=
  (∀ s t : State, s.pcBounded → step s = .next t → t.pcBounded) ∧
  (∀ (x : Transaction) (s t : State), s.pcBounded → transact x s = .next t → t.pcBounded)

/-- Both invariants hold right after reset, under every configuration (R43). -/
def Obligations.InvariantsHoldAtReset : Prop :=
  ∀ c : Config, (State.resetWith c).memoryIntact ∧ (State.resetWith c).pcBounded

/-- The latch is written by SetKey alone and by no step, and the configuration by nothing (R34, R44). -/
def Obligations.LatchAndConfigurationFrame : Prop :=
  (∀ s t : State, step s = .next t → Part.key.same s t ∧ Part.config.same s t) ∧
  (∀ (x : Transaction) (s t : State), transact x s = .next t →
    Part.config.same s t ∧ (x ≠ .reset → (∀ k b, x ≠ .setKey k b) → Part.key.same s t))

/-! ## Reset and the host's transactions -/

/-- Reset, accepted in every STATUS, leaves the values of R43 and one Clear event, under whatever configuration the state has;
`State.reset` is that state under the defaults of R7, PerCycle and OnChange, whose glyph 0 is that of R37 (the reset values of
DT, ST, STATUS and the stack are the spec's decisions D6, D9, D25, log entry 6; the default modes are D2 and D20 and the font
is D3, log entry 5; that the configuration is kept is read from R44, log entry 13). -/
def Obligations.ResetValues : Prop :=
  (∀ s : State, ∃ t, transact .reset s = .next t ∧ (∀ r, t.getV r = 0#8) ∧ t.i = 0#16 ∧ t.pc = 0x200#16 ∧ t.sp = 0 ∧
    (∀ k : Fin 16, t.stack[k] = 0#16) ∧ t.dt = 0#8 ∧ t.st = 0#8 ∧
    (∀ x y, Framebuffer.cell t.fb x y = false) ∧ (∀ k, t.keyAt k = false) ∧
    (∀ a, (h : a < 80) → t.readByte a = s.config.fontRom[a]) ∧ (∀ a, 80 ≤ a → t.readByte a = 0#8) ∧
    t.status = .run ∧ t.events = [.clear] ∧ t.config = s.config) ∧
  State.reset = State.resetWith defaultConfig ∧
  defaultConfig.timerMode = .perCycle ∧ defaultConfig.notifyMode = .onChange ∧
  State.reset.readBytes 0 5 = [0xF0#8, 0x90#8, 0x90#8, 0x90#8, 0xF0#8]

/-- Reset loads no program: the cycle right after it fetches 0x0000 at 0x200 and raises UnknownOpcode, under every
configuration (R179, which the spec derives; the record is its decision D6). -/
def Obligations.CycleAfterResetFaults : Prop :=
  ∀ c : Config, ∃ t, step (State.resetWith c) = .next t ∧
    t.status = .fault ⟨.unknownOpcode, 0x200#16, some 0x0000#16, none⟩ ∧ changesOnly [.status, .events] (State.resetWith c) t

/-- LoadProgram writes the bytes at 0x200 … and nothing else, when they fit; a longer image is refused and nothing is written
(R181, R66; that a load is accepted at any time is the spec's decision D26). -/
def Obligations.LoadProgramWritesImage : Prop :=
  ∀ (s : State) (bytes : List Byte),
    (bytes.length ≤ 3584 → response (.loadProgram bytes) s = .load .ok ∧
      ∃ t, transact (.loadProgram bytes) s = .next t ∧ changesOnly [.mem, .events] s t ∧ t.events = [] ∧
        (∀ k, (h : k < bytes.length) → t.readByte (0x200 + k) = bytes[k]) ∧ memSameOutside 0x200 bytes.length s t) ∧
    (3584 < bytes.length → response (.loadProgram bytes) s = .load .invalidProgramLength ∧
      ∃ t, transact (.loadProgram bytes) s = .next t ∧ changesOnly [.events] s t ∧ t.events = [])

/-- SetKey writes one latch slot in every STATUS and changes nothing else, but that a press that finds the slot released while
the core waits with nothing captured is captured (R157, R158; the capture is the spec's decision D12). -/
def Obligations.SetKeyWritesSlotAndCapturesEdge : Prop :=
  ∀ (s : State) (code : Nibble) (pressed : Bool), ∃ t, transact (.setKey code pressed) s = .next t ∧
    (∀ k, t.keyAt k = if k = code then pressed else s.keyAt k) ∧ changesOnly [.key, .status, .events] s t ∧ t.events = [] ∧
    (∀ x, s.status = .wait x none → pressed = true → s.keyAt code = false → t.status = .wait x (some code)) ∧
    ((∀ x, s.status ≠ .wait x none) ∨ pressed = false ∨ s.keyAt code = true → t.status = s.status)

/-- TimerTick does nothing in `PerCycle`; in `External` it ticks both timers once in RUN and WAIT and does nothing in FAULT and
HALT; it emits ToneEnd exactly when ST goes to 0 (R153, R154, R156; the spec's decisions D2 and D21). -/
def Obligations.TimerTickTransaction : Prop :=
  ∀ s : State, ∃ t, transact .timerTick s = .next t ∧ changesOnly [.dt, .st, .events] s t ∧
    (s.config.timerMode = .external → (s.status = .run ∨ ∃ x cap, s.status = .wait x cap) →
      t.dt.toNat = s.dt.toNat - 1 ∧ t.st.toNat = s.st.toNat - 1) ∧
    (s.config.timerMode = .perCycle ∨ s.status = .halt ∨ (∃ r, s.status = .fault r) → t.dt = s.dt ∧ t.st = s.st) ∧
    t.events = (if s.st ≠ 0#8 ∧ t.st = 0#8 then [.toneEnd] else [])

/-- Shutdown sets HALT, but keeps a fault, and changes nothing else: a key wait is ended with its register unwritten and PC at the
Fx0A word (R170, R151; the spec's decision D13). -/
def Obligations.ShutdownHalts : Prop :=
  ∀ s : State, ∃ t, transact .shutdown s = .next t ∧ changesOnly [.status, .events] s t ∧ t.events = [] ∧
    (∀ r, s.status = .fault r → t.status = .fault r) ∧ ((∀ r, s.status ≠ .fault r) → t.status = .halt)

/-! ## Timers -/

/-- Any number of ticks counts each timer down by as many, clamped at 0, and changes nothing else (R152). -/
def Obligations.TicksCountDownAndClamp : Prop :=
  ∀ (n : Nat) (s : State), (State.tick^[n] s).dt.toNat = s.dt.toNat - n ∧ (State.tick^[n] s).st.toNat = s.st.toNat - n ∧
    changesOnly [.dt, .st] s (State.tick^[n] s)

/-- A completed cycle returns Ok and ticks each timer exactly once in `PerCycle` and not at all in `External`, whatever instruction
ran, but that Fx15 and Fx18 first write theirs, so that the value written is ticked at once; a cycle that does not complete
leaves both and returns Waiting, when it began a key wait, or Fault with its record (R96, R97, R101, R153, R144, R145; the
spec's decisions D2 and D12, log entries 16 and 22; the result is a value of its decision D1, log entry 11). -/
def Obligations.CompletedCycleTicksOnce : Prop :=
  ∀ (s t : State) (i : Instr), s.runsNext i → step s = .next t →
    (t.status = .run → response .runCycle t = .cycle .ok ∧
      ∀ k, k = (if s.config.timerMode = .perCycle then 1 else 0) →
      ((∀ x, i ≠ .opFx15 x) → t.dt.toNat = s.dt.toNat - k) ∧ (∀ x, i = .opFx15 x → t.dt.toNat = (s.getV x).toNat - k) ∧
      ((∀ x, i ≠ .opFx18 x) → t.st.toNat = s.st.toNat - k) ∧ (∀ x, i = .opFx18 x → t.st.toNat = (s.getV x).toNat - k)) ∧
    (t.status ≠ .run → t.dt = s.dt ∧ t.st = s.st ∧
      ((∃ x, i = .opFx0A x ∧ response .runCycle t = .cycle .waiting) ∨
        ∃ r, t.status = .fault r ∧ response .runCycle t = .cycle (.fault r)))

/-- A cycle emits ToneEnd exactly when it begins with ST ≠ 0 and ends with ST = 0; it is then the last event and the only one of
its kind (R156; the spec's decision D21). -/
def Obligations.ToneEndExactlyWhenSoundStops : Prop :=
  ∀ s t : State, step s = .next t →
    ((s.st ≠ 0#8 ∧ t.st = 0#8) → ∃ es, t.events = es ++ [.toneEnd] ∧ Event.toneEnd ∉ es) ∧
    (¬ (s.st ≠ 0#8 ∧ t.st = 0#8) → Event.toneEnd ∉ t.events)

/-- Fx07 reads DT, Fx15 writes DT, Fx18 writes ST at execute; PC goes on by 2 and nothing else changes (R143, R144, R145; the
tick that may follow in the same cycle is CompletedCycleTicksOnce). -/
def Obligations.TimerInstructions : Prop :=
  ∀ (s : State) (x : Nibble),
    (∃ t, exec (.opFx07 x) s = .next t ∧ (∀ r, t.getV r = if r = x then s.dt else s.getV r) ∧ pcAdvanced 2 s t ∧
      changesOnly [.v, .pc] s t) ∧
    (∃ t, exec (.opFx15 x) s = .next t ∧ t.dt = s.getV x ∧ pcAdvanced 2 s t ∧ changesOnly [.dt, .pc] s t) ∧
    (∃ t, exec (.opFx18 x) s = .next t ∧ t.st = s.getV x ∧ pcAdvanced 2 s t ∧ changesOnly [.st, .pc] s t)

/-! ## The key wait and the key skips -/

/-- Fx0A sets WAIT(x, none) and changes nothing else: PC stays at its word; the whole cycle neither ticks nor delivers an event,
and returns Waiting (R148, R101; the spec's decision D12). -/
def Obligations.KeyWaitSuspends : Prop :=
  ∀ (s : State) (x : Nibble),
    (∃ t, exec (.opFx0A x) s = .next t ∧ t.status = .wait x none ∧ changesOnly [.status] s t) ∧
    (s.runsNext (.opFx0A x) → ∃ t, step s = .next t ∧ t.status = .wait x none ∧ t.events = [] ∧
      changesOnly [.status, .events] s t ∧ response .runCycle t = .cycle .waiting)

/-- The cycle after a capture writes the key code to Vx, advances PC past the Fx0A, sets RUN, ticks in `PerCycle`, returns Ok, and
changes nothing else (R150, R101; the spec's decisions D12 and D2, log entries 22 and 16; the result is a value of its decision
D1, log entry 11). -/
def Obligations.KeyWaitCompletes : Prop :=
  ∀ (s : State) (x k : Nibble), s.status = .wait x (some k) →
    ∃ t, step s = .next t ∧ (∀ r, (t.getV r).toNat = if r = x then k.toNat else (s.getV r).toNat) ∧ pcAdvanced 2 s t ∧
      t.status = .run ∧ response .runCycle t = .cycle .ok ∧ changesOnly [.v, .pc, .status, .dt, .st, .events] s t ∧
      (s.config.timerMode = .perCycle → t.dt.toNat = s.dt.toNat - 1 ∧ t.st.toNat = s.st.toNat - 1) ∧
      (s.config.timerMode = .external → t.dt = s.dt ∧ t.st = s.st)

/-- The whole key wait: after the cycle that began Fx0A, a press of a key already down captures nothing; the press of a released
key is captured, a later press does not replace it, and the next cycle stores it and goes on (R148 to R150, R158, R188; the
spec's decision D12). -/
def Obligations.KeyWaitTakesFirstEdge : Prop :=
  ∀ (s : State) (x held first later : Nibble), s.runsNext (.opFx0A x) → s.keyAt held = true → s.keyAt first = false →
    ∃ t, step s = .next t ∧
    ∃ u, transact (.setKey held true) t = .next u ∧ u.status = .wait x none ∧
    ∃ w, runTransactions [.setKey first true, .setKey later true, .runCycle] u = .next w ∧
      (w.state.getV x).toNat = first.toNat ∧ pcAdvanced 2 s w.state ∧ w.state.status = .run

/-- Ex9E skips one word when the key is down and ExA1 when it is up; neither changes anything but PC (R146, R147). A register value
above 0xF names no slot, and both raise KeyIndexOutOfRange, changing nothing but STATUS (the spec's decisions D15 and D6). -/
def Obligations.KeySkips : Prop :=
  ∀ (s : State) (x : Nibble),
    (∀ k : Nibble, (s.getV x).toNat = k.toNat →
      (∃ t, exec (.opEx9E x) s = .next t ∧ pcAdvanced (if s.keyAt k = true then 4 else 2) s t ∧ changesOnly [.pc] s t) ∧
      (∃ t, exec (.opExA1 x) s = .next t ∧ pcAdvanced (if s.keyAt k = true then 2 else 4) s t ∧ changesOnly [.pc] s t)) ∧
    (0xF < (s.getV x).toNat →
      exec (.opEx9E x) s = .next { s with
        status := .fault ⟨.keyIndexOutOfRange, s.pc, some (0xE#4 ++ x ++ 0x9E#8), none⟩ } ∧
      exec (.opExA1 x) s = .next { s with
        status := .fault ⟨.keyIndexOutOfRange, s.pc, some (0xE#4 ++ x ++ 0xA1#8), none⟩ })

/-! ## Control flow -/

/-- 1nnn sets PC to nnn and changes nothing else (R105). -/
def Obligations.JumpSetsPc : Prop :=
  ∀ (s : State) (nnn : Addr12), ∃ t, exec (.op1nnn nnn) s = .next t ∧ t.pc.toNat = nnn.toNat ∧ changesOnly [.pc] s t

/-- Bnnn sets PC to nnn + V0, not masked to 12 bits, and changes nothing else (R111; the unmasked target is the spec's decision
D17). -/
def Obligations.JumpPlusV0SetsPc : Prop :=
  ∀ (s : State) (nnn : Addr12), ∃ t, exec (.opBnnn nnn) s = .next t ∧
    t.pc.toNat = nnn.toNat + (s.getV 0x0#4).toNat ∧ changesOnly [.pc] s t

/-- 2nnn pushes PC + 2 and jumps; with 16 entries on the stack it raises StackOverflow and changes nothing but STATUS (R106, R29,
R160; the pushed value is the spec's decision D8, SP's form D9, the record D6). -/
def Obligations.CallPushesReturnAddress : Prop :=
  ∀ (s : State) (nnn : Addr12),
    (s.sp.val < 16 → ∃ t, exec (.op2nnn nnn) s = .next t ∧ t.pc.toNat = nnn.toNat ∧ t.sp.val = s.sp.val + 1 ∧
      (∀ k : Fin 16, k.val = s.sp.val → t.stack[k].toNat = (s.pc.toNat + 2) % 65536) ∧
      (∀ k : Fin 16, k.val ≠ s.sp.val → t.stack[k] = s.stack[k]) ∧ changesOnly [.pc, .stack] s t) ∧
    (s.sp.val = 16 → exec (.op2nnn nnn) s = .next { s with
      status := .fault ⟨.stackOverflow, s.pc, some (0x2#4 ++ nnn), none⟩ })

/-- 00EE pops the top entry into PC with no advance added, and the slot keeps its value; with an empty stack it raises
StackUnderflow and changes nothing but STATUS (R104, R29, R161; the spec's decisions D8, D9, D6). -/
def Obligations.ReturnPopsAddress : Prop :=
  ∀ s : State,
    (∀ k : Fin 16, s.sp.val = k.val + 1 → ∃ t, exec .op00EE s = .next t ∧ t.pc = s.stack[k] ∧ t.sp.val = k.val ∧
      t.stack = s.stack ∧ changesOnly [.pc, .stack] s t) ∧
    (s.sp.val = 0 → exec .op00EE s = .next { s with
      status := .fault ⟨.stackUnderflow, s.pc, some 0x00EE#16, none⟩ })

/-- A call and the matching return: at any depth below 16, 2nnn and then 00EE continue at the instruction after the call, with the
stack depth and every older entry as before (the property of spec/90_conflicts.md C3; the spec's decisions D8 and D9). -/
def Obligations.CallThenReturnContinues : Prop :=
  ∀ (s : State) (nnn : Addr12), s.sp.val < 16 →
    ∃ t, exec (.op2nnn nnn) s = .next t ∧ ∃ u, exec .op00EE t = .next u ∧ pcAdvanced 2 s u ∧ u.sp = s.sp ∧
      (∀ k : Fin 16, k.val < s.sp.val → u.stack[k] = s.stack[k]) ∧ changesOnly [.pc, .stack] s u

/-- 3xkk and 4xkk go on by 4 when Vx equals, or does not equal, kk, and by 2 otherwise; nothing but PC changes (R107, R108). -/
def Obligations.ImmediateSkips : Prop :=
  ∀ (s : State) (x : Nibble) (kk : Byte),
    (∃ t, exec (.op3xkk x kk) s = .next t ∧ pcAdvanced (if s.getV x = kk then 4 else 2) s t ∧ changesOnly [.pc] s t) ∧
    (∃ t, exec (.op4xkk x kk) s = .next t ∧ pcAdvanced (if s.getV x = kk then 2 else 4) s t ∧ changesOnly [.pc] s t)

/-- 5xy0 and 9xy0 go on by 4 when Vx equals, or does not equal, Vy, and by 2 otherwise; nothing but PC changes (R109, R110). -/
def Obligations.RegisterSkips : Prop :=
  ∀ (s : State) (x y : Nibble),
    (∃ t, exec (.op5xy0 x y) s = .next t ∧ pcAdvanced (if s.getV x = s.getV y then 4 else 2) s t ∧ changesOnly [.pc] s t) ∧
    (∃ t, exec (.op9xy0 x y) s = .next t ∧ pcAdvanced (if s.getV x = s.getV y then 2 else 4) s t ∧ changesOnly [.pc] s t)

/-! ## Registers and arithmetic -/

/-- 6xkk loads kk and 8xy0 copies Vy; every other register, VF among them, keeps its value (R114, R116). -/
def Obligations.LoadImmediateAndMove : Prop :=
  ∀ (s : State) (x y : Nibble) (kk : Byte),
    (∃ t, exec (.op6xkk x kk) s = .next t ∧ (∀ r, t.getV r = if r = x then kk else s.getV r) ∧ pcAdvanced 2 s t ∧
      changesOnly [.v, .pc] s t) ∧
    (∃ t, exec (.op8xy0 x y) s = .next t ∧ (∀ r, t.getV r = if r = x then s.getV y else s.getV r) ∧ pcAdvanced 2 s t ∧
      changesOnly [.v, .pc] s t)

/-- 7xkk adds modulo 256 and writes no carry (R115). -/
def Obligations.AddImmediateWraps : Prop :=
  ∀ (s : State) (x : Nibble) (kk : Byte), ∃ t, exec (.op7xkk x kk) s = .next t ∧
    (t.getV x).toNat = ((s.getV x).toNat + kk.toNat) % 256 ∧ (∀ r, r ≠ x → t.getV r = s.getV r) ∧ pcAdvanced 2 s t ∧
    changesOnly [.v, .pc] s t

/-- 8xy1, 8xy2 and 8xy3 combine Vx and Vy bit by bit into Vx and leave VF and every other register (R117, R118, R119). -/
def Obligations.LogicBitByBit : Prop :=
  ∀ (s : State) (x y : Nibble),
    (∃ t, exec (.op8xy1 x y) s = .next t ∧
      (∀ n, (t.getV x).getLsbD n = ((s.getV x).getLsbD n || (s.getV y).getLsbD n)) ∧
      (∀ r, r ≠ x → t.getV r = s.getV r) ∧ pcAdvanced 2 s t ∧ changesOnly [.v, .pc] s t) ∧
    (∃ t, exec (.op8xy2 x y) s = .next t ∧
      (∀ n, (t.getV x).getLsbD n = ((s.getV x).getLsbD n && (s.getV y).getLsbD n)) ∧
      (∀ r, r ≠ x → t.getV r = s.getV r) ∧ pcAdvanced 2 s t ∧ changesOnly [.v, .pc] s t) ∧
    (∃ t, exec (.op8xy3 x y) s = .next t ∧
      (∀ n, (t.getV x).getLsbD n = ((s.getV x).getLsbD n ^^ (s.getV y).getLsbD n)) ∧
      (∀ r, r ≠ x → t.getV r = s.getV r) ∧ pcAdvanced 2 s t ∧ changesOnly [.v, .pc] s t)

/-- 8xy4: Vx is the sum modulo 256 and VF is 1 exactly when the sum exceeds 255; with x = 0xF, VF keeps the carry (R120; for
x = 0xF the write order of the spec's decision D7). -/
def Obligations.AddWithCarry : Prop :=
  ∀ (s : State) (x y : Nibble), ∃ t, exec (.op8xy4 x y) s = .next t ∧
    (x ≠ 0xF#4 → (t.getV x).toNat = ((s.getV x).toNat + (s.getV y).toNat) % 256) ∧
    t.getV 0xF#4 = (if 255 < (s.getV x).toNat + (s.getV y).toNat then 1#8 else 0#8) ∧
    (∀ r, r ≠ x → r ≠ 0xF#4 → t.getV r = s.getV r) ∧ pcAdvanced 2 s t ∧ changesOnly [.v, .pc] s t

/-- 8xy5 and 8xy7: the difference modulo 256 goes to Vx, and VF is 1 exactly when the minuend is strictly greater; with x = 0xF,
VF keeps the difference (R121, R123; for x = 0xF the write order of the spec's decision D7). -/
def Obligations.SubtractNotBorrow : Prop :=
  ∀ (s : State) (x y : Nibble),
    (∃ t, exec (.op8xy5 x y) s = .next t ∧
      (t.getV x).toNat = ((s.getV x).toNat + 256 - (s.getV y).toNat) % 256 ∧
      (x ≠ 0xF#4 → t.getV 0xF#4 = if (s.getV y).toNat < (s.getV x).toNat then 1#8 else 0#8) ∧
      (∀ r, r ≠ x → r ≠ 0xF#4 → t.getV r = s.getV r) ∧ pcAdvanced 2 s t ∧ changesOnly [.v, .pc] s t) ∧
    (∃ t, exec (.op8xy7 x y) s = .next t ∧
      (t.getV x).toNat = ((s.getV y).toNat + 256 - (s.getV x).toNat) % 256 ∧
      (x ≠ 0xF#4 → t.getV 0xF#4 = if (s.getV x).toNat < (s.getV y).toNat then 1#8 else 0#8) ∧
      (∀ r, r ≠ x → r ≠ 0xF#4 → t.getV r = s.getV r) ∧ pcAdvanced 2 s t ∧ changesOnly [.v, .pc] s t)

/-- 8xy6 halves Vx and 8xyE doubles it modulo 256; VF is the bit shifted out, bit 0 and bit 7; Vy is not read; with x = 0xF, VF
keeps the shifted value (R122, R124; for x = 0xF the write order of the spec's decision D7). -/
def Obligations.ShiftsByOne : Prop :=
  ∀ (s : State) (x y : Nibble),
    (∃ t, exec (.op8xy6 x y) s = .next t ∧ (t.getV x).toNat = (s.getV x).toNat / 2 ∧
      (x ≠ 0xF#4 → (t.getV 0xF#4).toNat = (s.getV x).toNat % 2) ∧
      (∀ r, r ≠ x → r ≠ 0xF#4 → t.getV r = s.getV r) ∧ pcAdvanced 2 s t ∧ changesOnly [.v, .pc] s t) ∧
    (∃ t, exec (.op8xyE x y) s = .next t ∧ (t.getV x).toNat = (s.getV x).toNat * 2 % 256 ∧
      (x ≠ 0xF#4 → (t.getV 0xF#4).toNat = (s.getV x).toNat / 128) ∧
      (∀ r, r ≠ x → r ≠ 0xF#4 → t.getV r = s.getV r) ∧ pcAdvanced 2 s t ∧ changesOnly [.v, .pc] s t)

/-- Cxkk: Vx is one draw masked with kk, so 0 for kk = 0 whatever the draw, and the draw is used up (R125; the draw is the spec's
parameter RND, D4, a constant without a body in the model, log entry 2). -/
def Obligations.RandomByteIsMaskedDraw : Prop :=
  ∀ (s : State) (x : Nibble) (kk : Byte), ∃ t, exec (.opCxkk x kk) s = .next t ∧
    t.getV x = Config.randomByte s.draws &&& kk ∧ (kk = 0#8 → t.getV x = 0#8) ∧ t.draws = s.draws + 1 ∧
    (∀ r, r ≠ x → t.getV r = s.getV r) ∧ pcAdvanced 2 s t ∧ changesOnly [.v, .pc, .draws] s t

/-- Who writes VF: the six flag instructions, an instruction that names VF as its destination, and nothing else; Fx65 never does
(R20). -/
def Obligations.WritersOfVF : Prop :=
  ∀ (i : Instr) (s t : State), exec i s = .next t → t.getV 0xF#4 ≠ s.getV 0xF#4 →
    (∃ x y, i = .op8xy4 x y ∨ i = .op8xy5 x y ∨ i = .op8xy6 x y ∨ i = .op8xy7 x y ∨ i = .op8xyE x y) ∨
    (∃ x y n, i = .opDxyn x y n) ∨
    (∃ kk, i = .op6xkk 0xF#4 kk ∨ i = .op7xkk 0xF#4 kk ∨ i = .opCxkk 0xF#4 kk) ∨
    (∃ y, i = .op8xy0 0xF#4 y ∨ i = .op8xy1 0xF#4 y ∨ i = .op8xy2 0xF#4 y ∨ i = .op8xy3 0xF#4 y) ∨
    i = .opFx07 0xF#4

/-- Who writes what, over all instructions. V: a register named as destination, V0 … V(x−1) by Fx65, and VF by the flag
instructions and Dxyn. I: Annn, Fx1E, Fx29. PC: every instruction but Fx0A and one that faults, and otherwise than by the advance of
2 only the instructions of R94. The stack: 2nnn and 00EE. The framebuffer: 00E0 and Dxyn. Memory: Fx33 and Fx55. DT: Fx15. ST: Fx18.
STATUS: Fx0A, which sets WAIT, and a fatal error, which only eight instructions can raise. Events: 00E0 and Dxyn. A draw: Cxkk. The
latch and the configuration: none (R18, R20, R23, R25, R94, R29, R33, R34, R46, R31, R32, R38; that the memory instructions leave I is
the spec's decision D19, log entry 29; STATUS and its kinds are D6, D12, D5, D15, log entries 8, 22, 17, 25; that Dxyn names the
events is D20, log entry 30; the draw is log entry 2). -/
def Obligations.WritersOfEachPiece : Prop :=
  ∀ (i : Instr) (s t : State), exec i s = .next t →
    (∀ r, t.getV r ≠ s.getV r →
      (∃ kk, i = .op6xkk r kk ∨ i = .op7xkk r kk ∨ i = .opCxkk r kk) ∨
      (∃ y, i = .op8xy0 r y ∨ i = .op8xy1 r y ∨ i = .op8xy2 r y ∨ i = .op8xy3 r y ∨ i = .op8xy4 r y ∨ i = .op8xy5 r y ∨
        i = .op8xy6 r y ∨ i = .op8xy7 r y ∨ i = .op8xyE r y) ∨
      i = .opFx07 r ∨ (∃ x, i = .opFx65 x ∧ r.toNat < x.toNat) ∨
      (r = 0xF#4 ∧ ∃ x y n, i = .op8xy4 x y ∨ i = .op8xy5 x y ∨ i = .op8xy6 x y ∨ i = .op8xy7 x y ∨ i = .op8xyE x y ∨
        i = .opDxyn x y n)) ∧
    (t.i ≠ s.i → ∃ x nnn, i = .opAnnn nnn ∨ i = .opFx1E x ∨ i = .opFx29 x) ∧
    ((∃ x, i = .opFx0A x) → t.pc = s.pc) ∧
    (¬ pcAdvanced 2 s t →
      i = .op00EE ∨ (∃ nnn, i = .op1nnn nnn ∨ i = .op2nnn nnn ∨ i = .opBnnn nnn) ∨
      (∃ x kk, i = .op3xkk x kk ∨ i = .op4xkk x kk) ∨ (∃ x y, i = .op5xy0 x y ∨ i = .op9xy0 x y) ∨
      (∃ x, i = .opEx9E x ∨ i = .opExA1 x ∨ i = .opFx0A x) ∨ (t.pc = s.pc ∧ ∃ r, t.status = .fault r)) ∧
    (¬ Part.stack.same s t → i = .op00EE ∨ ∃ nnn, i = .op2nnn nnn) ∧
    (¬ Part.fb.same s t → i = .op00E0 ∨ ∃ x y n, i = .opDxyn x y n) ∧
    (¬ Part.mem.same s t → ∃ x, i = .opFx33 x ∨ i = .opFx55 x) ∧
    (t.dt ≠ s.dt → ∃ x, i = .opFx15 x) ∧
    (t.st ≠ s.st → ∃ x, i = .opFx18 x) ∧
    (t.status ≠ s.status → (∃ x, i = .opFx0A x ∧ t.status = .wait x none) ∨
      ((∃ r, t.status = .fault r) ∧ (i = .op00EE ∨ (∃ nnn, i = .op2nnn nnn) ∨ (∃ x y n, i = .opDxyn x y n) ∨
        ∃ x, i = .opEx9E x ∨ i = .opExA1 x ∨ i = .opFx33 x ∨ i = .opFx55 x ∨ i = .opFx65 x))) ∧
    (t.events ≠ s.events → i = .op00E0 ∨ ∃ x y n, i = .opDxyn x y n) ∧
    (t.draws ≠ s.draws → ∃ x kk, i = .opCxkk x kk) ∧
    Part.key.same s t ∧ Part.config.same s t

/-- What no instruction reads: the framebuffer, but for Dxyn, and ST at all. Changing either before an instruction changes nothing
else after it, and 00E0 and Fx18, which overwrite them, hide the change (R32, R33, R65). The two executions compared have equal
draw counters, so a Cxkk takes the same draw in both, which the hardware does not promise: there the statement says only that
neither piece has a part in the result (log entry 2, DESIGN CHOICE, unsafe for such comparisons). -/
def Obligations.FramebufferAndSoundTimerUnread : Prop :=
  ∀ (i : Instr) (s t : State), exec i s = .next t →
    (∀ f : Framebuffer, (∀ x y n, i ≠ .opDxyn x y n) → i ≠ .op00E0 → exec i (s.setFb f) = .next (t.setFb f)) ∧
    (∀ f : Framebuffer, i = .op00E0 → exec i (s.setFb f) = .next t) ∧
    (∀ b : Byte, (∀ x, i ≠ .opFx18 x) → exec i (s.setSt b) = .next (t.setSt b)) ∧
    (∀ b : Byte, (∃ x, i = .opFx18 x) → exec i (s.setSt b) = .next t)

/-! ## Index register and memory -/

/-- Annn loads nnn, Fx1E adds Vx modulo 2^16 with no flag, Fx29 loads 5·Vx; only I and PC change (R126, R127, R128; the width of the
sum and the unmasked digit are the spec's decisions D16 and D14). -/
def Obligations.IndexWrites : Prop :=
  ∀ (s : State) (x : Nibble) (nnn : Addr12),
    (∃ t, exec (.opAnnn nnn) s = .next t ∧ t.i.toNat = nnn.toNat ∧ pcAdvanced 2 s t ∧ changesOnly [.i, .pc] s t) ∧
    (∃ t, exec (.opFx1E x) s = .next t ∧ t.i.toNat = (s.i.toNat + (s.getV x).toNat) % 65536 ∧ pcAdvanced 2 s t ∧
      changesOnly [.i, .pc] s t) ∧
    (∃ t, exec (.opFx29 x) s = .next t ∧ t.i.toNat = 5 * (s.getV x).toNat ∧ pcAdvanced 2 s t ∧ changesOnly [.i, .pc] s t)

/-- Fx33 stores the hundreds, tens and ones of Vx at I, I+1, I+2, and no other byte, and leaves I; out of range it raises
AddressOutOfRange, into the font FontWrite, and then nothing but STATUS changes (R129, R52, R49; the faults are the spec's
decisions D5 and D6, that I stays is D19). -/
def Obligations.BcdStore : Prop :=
  ∀ (s : State) (x : Nibble),
    (s.dataAddr + 2 ≤ 0xFFF → 0x50 ≤ s.dataAddr → ∃ t, exec (.opFx33 x) s = .next t ∧
      (t.readByte s.dataAddr).toNat = (s.getV x).toNat / 100 ∧
      (t.readByte (s.dataAddr + 1)).toNat = (s.getV x).toNat / 10 % 10 ∧
      (t.readByte (s.dataAddr + 2)).toNat = (s.getV x).toNat % 10 ∧
      memSameOutside s.dataAddr 3 s t ∧ pcAdvanced 2 s t ∧ changesOnly [.mem, .pc] s t) ∧
    (0xFFF < s.dataAddr + 2 → exec (.opFx33 x) s = .next { s with
      status := .fault ⟨.addressOutOfRange, s.pc, some (0xF#4 ++ x ++ 0x33#8), some (max s.dataAddr 0x1000)⟩ }) ∧
    (s.dataAddr < 0x50 → exec (.opFx33 x) s = .next { s with
      status := .fault ⟨.fontWrite, s.pc, some (0xF#4 ++ x ++ 0x33#8), some s.dataAddr⟩ })

/-- Fx55 stores V0 … V(x−1) at I, I+1, …, and no other byte, and leaves I; x = 0 stores nothing and never faults; out of range it
raises AddressOutOfRange, into the font FontWrite, and then nothing but STATUS changes (R130, R52, R49; the faults are the
spec's decisions D5 and D6, that I stays is D19). -/
def Obligations.RegisterStore : Prop :=
  ∀ (s : State) (x : Nibble),
    (x = 0#4 ∨ (s.dataAddr + x.toNat - 1 ≤ 0xFFF ∧ 0x50 ≤ s.dataAddr) → ∃ t, exec (.opFx55 x) s = .next t ∧
      (∀ k : Nibble, k.toNat < x.toNat → t.readByte (s.dataAddr + k.toNat) = s.getV k) ∧
      memSameOutside s.dataAddr x.toNat s t ∧ pcAdvanced 2 s t ∧ changesOnly [.mem, .pc] s t) ∧
    (x ≠ 0#4 → 0xFFF < s.dataAddr + x.toNat - 1 → exec (.opFx55 x) s = .next { s with
      status := .fault ⟨.addressOutOfRange, s.pc, some (0xF#4 ++ x ++ 0x55#8), some (max s.dataAddr 0x1000)⟩ }) ∧
    (x ≠ 0#4 → s.dataAddr < 0x50 → exec (.opFx55 x) s = .next { s with
      status := .fault ⟨.fontWrite, s.pc, some (0xF#4 ++ x ++ 0x55#8), some s.dataAddr⟩ })

/-- Fx65 loads V0 … V(x−1) from I, I+1, … and leaves Vx and every later register, VF among them, memory and I; x = 0 loads nothing
and never faults; out of range it raises AddressOutOfRange, and then nothing but STATUS changes (R131, R52; the fault's form is
the spec's decision D6, that I stays is D19). -/
def Obligations.RegisterLoad : Prop :=
  ∀ (s : State) (x : Nibble),
    (x = 0#4 ∨ s.dataAddr + x.toNat - 1 ≤ 0xFFF → ∃ t, exec (.opFx65 x) s = .next t ∧
      (∀ k : Nibble, t.getV k = if k.toNat < x.toNat then s.readByte (s.dataAddr + k.toNat) else s.getV k) ∧
      pcAdvanced 2 s t ∧ changesOnly [.v, .pc] s t) ∧
    (x ≠ 0#4 → 0xFFF < s.dataAddr + x.toNat - 1 → exec (.opFx65 x) s = .next { s with
      status := .fault ⟨.addressOutOfRange, s.pc, some (0xF#4 ++ x ++ 0x65#8), some (max s.dataAddr 0x1000)⟩ })

/-- Fx65 is the inverse of Fx55: what Fx55 stored, a later Fx65 with the same x and I loads back, whatever the registers hold by
then (R130, R131; that I stays is the spec's decision D19). -/
def Obligations.StoreThenLoadRestoresRegisters : Prop :=
  ∀ (s t u : State) (x : Nibble), s.unfaulted → exec (.opFx55 x) s = .next t → t.unfaulted →
    changesOnly [.v, .pc] t u → ∃ w, exec (.opFx65 x) u = .next w ∧
      ∀ k : Nibble, w.getV k = if k.toNat < x.toNat then s.getV k else u.getV k

/-! ## Display -/

/-- 00E0 turns every cell off and emits one Clear; VF and everything else stay (R134). -/
def Obligations.ClearScreen : Prop :=
  ∀ s : State, ∃ t, exec .op00E0 s = .next t ∧ (∀ x y, Framebuffer.cell t.fb x y = false) ∧
    t.events = s.events ++ [.clear] ∧ pcAdvanced 2 s t ∧ changesOnly [.fb, .pc, .events] s t

/-- Dxyn turns over exactly the cells its sprite has a 1 on, each row and column wrapped, and sets VF to 1 exactly when one of them
was on; every other register, I and memory stay; the origin is that of the registers before VF is written (R135 to R139; n = 0
draws nothing by the spec's decision D11, that I stays is D19). -/
def Obligations.DrawXorsSprite : Prop :=
  ∀ (s : State) (x y n : Nibble), spriteInRange s n → ∃ t, exec (.opDxyn x y n) s = .next t ∧
    (∀ px py, spriteOn s x y n px py → Framebuffer.cell t.fb px py = !Framebuffer.cell s.fb px py) ∧
    (∀ px py, ¬ spriteOn s x y n px py → Framebuffer.cell t.fb px py = Framebuffer.cell s.fb px py) ∧
    ((∃ px py, spriteOn s x y n px py ∧ Framebuffer.cell s.fb px py = true) → t.getV 0xF#4 = 1#8) ∧
    ((∀ px py, spriteOn s x y n px py → Framebuffer.cell s.fb px py = false) → t.getV 0xF#4 = 0#8) ∧
    (∀ r, r ≠ 0xF#4 → t.getV r = s.getV r) ∧ pcAdvanced 2 s t ∧ changesOnly [.v, .fb, .pc, .events] s t

/-- Dxyn whose sprite passes 0xFFF raises AddressOutOfRange and changes nothing but STATUS; Dxy0 has no range check and never
faults: it clears VF and emits Present (R135, R52, R140; the spec's decisions D6 and D11). -/
def Obligations.DrawFaultAndEmptyDraw : Prop :=
  ∀ (s : State) (x y n : Nibble),
    (n ≠ 0#4 → 0xFFF < s.dataAddr + n.toNat - 1 → exec (.opDxyn x y n) s = .next { s with
      status := .fault ⟨.addressOutOfRange, s.pc, some (0xD#4 ++ x ++ y ++ n), some (max s.dataAddr 0x1000)⟩ }) ∧
    (∃ t, exec (.opDxyn x y 0#4) s = .next t ∧ (∀ r, t.getV r = if r = 0xF#4 then 0#8 else s.getV r) ∧
      t.events = s.events ++ [.present] ∧ pcAdvanced 2 s t ∧ changesOnly [.v, .pc, .events] s t)

/-- What Dxyn notifies: in `OnChange` the cells with sprite bit 1, in `Touched` every cell of the box, row by row and column by
column, each with its new state, and then one Present (R141; which cells and in which order are the spec's decision D20). -/
def Obligations.DrawNotifications : Prop :=
  ∀ (s t : State) (x y n : Nibble), spriteInRange s n → exec (.opDxyn x y n) s = .next t →
    (s.config.notifyMode = .onChange → t.events = s.events ++
      ((spriteBox s x y n).filter (fun c => c.2.2)).map
        (fun c => .setPixel c.1 c.2.1 (Framebuffer.cell t.fb c.1 c.2.1)) ++ [.present]) ∧
    (s.config.notifyMode = .touched → t.events = s.events ++
      (spriteBox s x y n).map (fun c => .setPixel c.1 c.2.1 (Framebuffer.cell t.fb c.1 c.2.1)) ++ [.present])

/-- Drawing the same sprite twice restores the framebuffer, when neither origin register is VF; the first draw reports a cell that was
on, the second a cell that was off (R142, whose exact form the spec derives; that the first draw leaves I, so that the second
draws the same sprite, is the spec's decision D19, log entry 29; n = 0 draws nothing by D11, log entry 21). -/
def Obligations.DrawTwiceRestores : Prop :=
  ∀ (s : State) (x y n : Nibble), x ≠ 0xF#4 → y ≠ 0xF#4 → spriteInRange s n →
    ∃ t, exec (.opDxyn x y n) s = .next t ∧ ∃ u, exec (.opDxyn x y n) t = .next u ∧ u.fb = s.fb ∧
      (t.getV 0xF#4 = 1#8 ↔ ∃ px py, spriteOn s x y n px py ∧ Framebuffer.cell s.fb px py = true) ∧
      (u.getV 0xF#4 = 1#8 ↔ ∃ px py, spriteOn s x y n px py ∧ Framebuffer.cell s.fb px py = false)
end

