-- ==== Sys2Proof/Laws/Decode.lean ====
section
/-! SUPPORT. Laws/Decode.lean: words and their fields as numbers (R68), so that a field of a built word, and a word from its
fields, are linear arithmetic. -/

namespace Sys2Proof

/-! ### Built words as numbers -/

theorem toNat_wordOfXyn (g x y n : Nibble) :
    (wordOfXyn g x y n).toNat = g.toNat * 4096 + x.toNat * 256 + y.toNat * 16 + n.toNat := by
  have := g.isLt; have := x.isLt; have := y.isLt; have := n.isLt
  show (g ++ x ++ y ++ n : BitVec (4 + 4 + 4 + 4)).toNat = _
  rw [BitVec.toNat_append, BitVec.toNat_append, BitVec.toNat_append]
  rw [← Nat.shiftLeft_add_eq_or_of_lt x.isLt, ← Nat.shiftLeft_add_eq_or_of_lt y.isLt, ← Nat.shiftLeft_add_eq_or_of_lt n.isLt]
  simp only [Nat.shiftLeft_eq]
  omega

theorem toNat_wordOfXkk (g x : Nibble) (kk : Byte) :
    (wordOfXkk g x kk).toNat = g.toNat * 4096 + x.toNat * 256 + kk.toNat := by
  have := g.isLt; have := x.isLt; have := kk.isLt
  show (g ++ x ++ kk : BitVec (4 + 4 + 8)).toNat = _
  rw [BitVec.toNat_append, BitVec.toNat_append, ← Nat.shiftLeft_add_eq_or_of_lt x.isLt, ← Nat.shiftLeft_add_eq_or_of_lt kk.isLt]
  simp only [Nat.shiftLeft_eq]
  omega

theorem toNat_wordOfNnn (g : Nibble) (nnn : Addr12) : (wordOfNnn g nnn).toNat = g.toNat * 4096 + nnn.toNat := by
  have := g.isLt; have := nnn.isLt
  show (g ++ nnn : BitVec (4 + 12)).toNat = _
  rw [BitVec.toNat_append, ← Nat.shiftLeft_add_eq_or_of_lt nnn.isLt]
  simp only [Nat.shiftLeft_eq]

/-! ### Fields as numbers -/

theorem toNat_fieldG (w : Word) : (fieldG w).toNat = w.toNat / 4096 := by
  have := w.isLt
  simp [fieldG, Nat.shiftRight_eq_div_pow]; omega

theorem toNat_fieldX (w : Word) : (fieldX w).toNat = w.toNat / 256 % 16 := by
  simp [fieldX, Nat.shiftRight_eq_div_pow]

theorem toNat_fieldY (w : Word) : (fieldY w).toNat = w.toNat / 16 % 16 := by
  simp [fieldY, Nat.shiftRight_eq_div_pow]

theorem toNat_fieldN (w : Word) : (fieldN w).toNat = w.toNat % 16 := by
  simp [fieldN]

theorem toNat_fieldKk (w : Word) : (fieldKk w).toNat = w.toNat % 256 := by
  simp [fieldKk]

theorem toNat_fieldNnn (w : Word) : (fieldNnn w).toNat = w.toNat % 4096 := by
  simp [fieldNnn]

/-! ### Fields of built words -/

@[simp] theorem fieldG_wordOfXyn (g x y n : Nibble) : fieldG (wordOfXyn g x y n) = g := by
  have := x.isLt; have := y.isLt; have := n.isLt
  apply BitVec.eq_of_toNat_eq; rw [toNat_fieldG, toNat_wordOfXyn]; omega

@[simp] theorem fieldX_wordOfXyn (g x y n : Nibble) : fieldX (wordOfXyn g x y n) = x := by
  have := x.isLt; have := y.isLt; have := n.isLt
  apply BitVec.eq_of_toNat_eq; rw [toNat_fieldX, toNat_wordOfXyn]; omega

@[simp] theorem fieldY_wordOfXyn (g x y n : Nibble) : fieldY (wordOfXyn g x y n) = y := by
  have := y.isLt; have := n.isLt
  apply BitVec.eq_of_toNat_eq; rw [toNat_fieldY, toNat_wordOfXyn]; omega

@[simp] theorem fieldN_wordOfXyn (g x y n : Nibble) : fieldN (wordOfXyn g x y n) = n := by
  have := n.isLt
  apply BitVec.eq_of_toNat_eq; rw [toNat_fieldN, toNat_wordOfXyn]; omega

@[simp] theorem fieldG_wordOfXkk (g x : Nibble) (kk : Byte) : fieldG (wordOfXkk g x kk) = g := by
  have := x.isLt; have := kk.isLt
  apply BitVec.eq_of_toNat_eq; rw [toNat_fieldG, toNat_wordOfXkk]; omega

@[simp] theorem fieldX_wordOfXkk (g x : Nibble) (kk : Byte) : fieldX (wordOfXkk g x kk) = x := by
  have := x.isLt; have := kk.isLt
  apply BitVec.eq_of_toNat_eq; rw [toNat_fieldX, toNat_wordOfXkk]; omega

@[simp] theorem fieldKk_wordOfXkk (g x : Nibble) (kk : Byte) : fieldKk (wordOfXkk g x kk) = kk := by
  have := kk.isLt
  apply BitVec.eq_of_toNat_eq; rw [toNat_fieldKk, toNat_wordOfXkk]; omega

@[simp] theorem fieldG_wordOfNnn (g : Nibble) (nnn : Addr12) : fieldG (wordOfNnn g nnn) = g := by
  have := nnn.isLt
  apply BitVec.eq_of_toNat_eq; rw [toNat_fieldG, toNat_wordOfNnn]; omega

@[simp] theorem fieldNnn_wordOfNnn (g : Nibble) (nnn : Addr12) : fieldNnn (wordOfNnn g nnn) = nnn := by
  have := nnn.isLt
  apply BitVec.eq_of_toNat_eq; rw [toNat_fieldNnn, toNat_wordOfNnn]; omega

/-! ### A word from its fields -/

@[simp] theorem wordOfXyn_fields (w : Word) : wordOfXyn (fieldG w) (fieldX w) (fieldY w) (fieldN w) = w := by
  have := w.isLt
  apply BitVec.eq_of_toNat_eq
  rw [toNat_wordOfXyn, toNat_fieldG, toNat_fieldX, toNat_fieldY, toNat_fieldN]; omega

@[simp] theorem wordOfXkk_fields (w : Word) : wordOfXkk (fieldG w) (fieldX w) (fieldKk w) = w := by
  have := w.isLt
  apply BitVec.eq_of_toNat_eq
  rw [toNat_wordOfXkk, toNat_fieldG, toNat_fieldX, toNat_fieldKk]; omega

@[simp] theorem wordOfNnn_fields (w : Word) : wordOfNnn (fieldG w) (fieldNnn w) = w := by
  apply BitVec.eq_of_toNat_eq
  rw [toNat_wordOfNnn, toNat_fieldG, toNat_fieldNnn]; omega

/-! ### The masks of the opcode table -/

theorem getLsbD_wordOfXyn (g x y n : Nibble) (i : Nat) : (wordOfXyn g x y n).getLsbD i =
    if i < 4 then n.getLsbD i else if i < 8 then y.getLsbD (i - 4) else if i < 12 then x.getLsbD (i - 8) else g.getLsbD (i - 12) := by
  show (g ++ x ++ y ++ n : BitVec (4 + 4 + 4 + 4)).getLsbD i = _
  rw [BitVec.getLsbD_append, BitVec.getLsbD_append, BitVec.getLsbD_append]
  split
  · simp [*]
  · split
    · have : i < 8 := by omega
      simp [*]
    · split
      · have h1 : ¬ i < 8 := by omega
        have h2 : i < 12 := by omega
        simp [h1, h2, Nat.sub_sub]
      · have h1 : ¬ i < 8 := by omega
        have h2 : ¬ i < 12 := by omega
        simp [h1, h2, Nat.sub_sub]

theorem wordOfXyn_and_F000 (g x y n : Nibble) : wordOfXyn g x y n &&& 0xF000#16 = wordOfXyn g 0#4 0#4 0#4 := by
  apply BitVec.eq_of_getLsbD_eq
  intro i hi
  rw [BitVec.getLsbD_and, getLsbD_wordOfXyn, getLsbD_wordOfXyn]
  interval_cases i <;> simp
theorem wordOfXyn_and_F00F (g x y n : Nibble) : wordOfXyn g x y n &&& 0xF00F#16 = wordOfXyn g 0#4 0#4 n := by
  apply BitVec.eq_of_getLsbD_eq
  intro i hi
  rw [BitVec.getLsbD_and, getLsbD_wordOfXyn, getLsbD_wordOfXyn]
  interval_cases i <;> simp
theorem wordOfXyn_and_F0FF (g x y n : Nibble) : wordOfXyn g x y n &&& 0xF0FF#16 = wordOfXyn g 0#4 y n := by
  apply BitVec.eq_of_getLsbD_eq
  intro i hi
  rw [BitVec.getLsbD_and, getLsbD_wordOfXyn, getLsbD_wordOfXyn]
  interval_cases i <;> simp

theorem wordOfXkk_eq (g x : Nibble) (kk : Byte) :
    wordOfXkk g x kk = wordOfXyn g x (kk.extractLsb' 4 4) (kk.extractLsb' 0 4) := by
  have := kk.isLt
  apply BitVec.eq_of_toNat_eq
  rw [toNat_wordOfXkk, toNat_wordOfXyn]
  simp [Nat.shiftRight_eq_div_pow]; omega

theorem wordOfNnn_eq (g : Nibble) (nnn : Addr12) :
    wordOfNnn g nnn = wordOfXyn g (nnn.extractLsb' 8 4) (nnn.extractLsb' 4 4) (nnn.extractLsb' 0 4) := by
  have := nnn.isLt
  apply BitVec.eq_of_toNat_eq
  rw [toNat_wordOfNnn, toNat_wordOfXyn]
  simp [Nat.shiftRight_eq_div_pow]; omega

/-! ### Bytes -/

theorem toNat_beWord (hi lo : Byte) : (beWord hi lo).toNat = hi.toNat * 256 + lo.toNat := by
  have := hi.isLt; have := lo.isLt
  show (hi ++ lo : BitVec (8 + 8)).toNat = _
  rw [BitVec.toNat_append, ← Nat.shiftLeft_add_eq_or_of_lt lo.isLt]
  simp only [Nat.shiftLeft_eq]

/-- Laying a word out as memory holds it and reading it back gives the word (R50). -/
theorem beWord_wordBytes (w : Word) : beWord (w.extractLsb' 8 8) (w.extractLsb' 0 8) = w := by
  have := w.isLt
  apply BitVec.eq_of_toNat_eq
  rw [toNat_beWord]
  simp [Nat.shiftRight_eq_div_pow]; omega

/-- Decoding a byte sequence consumes exactly two bytes (R67). -/
theorem decodeBytes_rest {bs rest : List Byte} {i : Instr} (h : decodeBytes bs = .ok (i, rest)) :
    ∃ hi lo, bs = hi :: lo :: rest ∧ decode (beWord hi lo) = .ok i := by
  match bs with
  | [] => simp [decodeBytes] at h
  | [_] => simp [decodeBytes] at h
  | hi :: lo :: r =>
    simp only [decodeBytes] at h
    split at h
    · rename_i j hj; cases h; exact ⟨hi, lo, rfl, hj⟩
    · cases h

end Sys2Proof
end

