-- ==== Sys2Proof/Laws/State.lean ====
section
/-! SUPPORT. Laws/State.lean: one lemma per field per update, each true by unfolding the record, so that no later proof
unfolds an update. -/

namespace Sys2Proof.Machine

/-! ### setI -/

@[simp] theorem State.setI_v (s : State) (a : Word) : (s.setI a).v = s.v := rfl
@[simp] theorem State.setI_i (s : State) (a : Word) : (s.setI a).i = a := rfl
@[simp] theorem State.setI_pc (s : State) (a : Word) : (s.setI a).pc = s.pc := rfl
@[simp] theorem State.setI_stack (s : State) (a : Word) : (s.setI a).stack = s.stack := rfl
@[simp] theorem State.setI_sp (s : State) (a : Word) : (s.setI a).sp = s.sp := rfl
@[simp] theorem State.setI_dt (s : State) (a : Word) : (s.setI a).dt = s.dt := rfl
@[simp] theorem State.setI_st (s : State) (a : Word) : (s.setI a).st = s.st := rfl
@[simp] theorem State.setI_fb (s : State) (a : Word) : (s.setI a).fb = s.fb := rfl
@[simp] theorem State.setI_key (s : State) (a : Word) : (s.setI a).key = s.key := rfl
@[simp] theorem State.setI_mem (s : State) (a : Word) : (s.setI a).mem = s.mem := rfl
@[simp] theorem State.setI_status (s : State) (a : Word) : (s.setI a).status = s.status := rfl
@[simp] theorem State.setI_config (s : State) (a : Word) : (s.setI a).config = s.config := rfl
@[simp] theorem State.setI_draws (s : State) (a : Word) : (s.setI a).draws = s.draws := rfl
@[simp] theorem State.setI_events (s : State) (a : Word) : (s.setI a).events = s.events := rfl

/-! ### setPc -/

@[simp] theorem State.setPc_v (s : State) (a : Word) : (s.setPc a).v = s.v := rfl
@[simp] theorem State.setPc_i (s : State) (a : Word) : (s.setPc a).i = s.i := rfl
@[simp] theorem State.setPc_pc (s : State) (a : Word) : (s.setPc a).pc = a := rfl
@[simp] theorem State.setPc_stack (s : State) (a : Word) : (s.setPc a).stack = s.stack := rfl
@[simp] theorem State.setPc_sp (s : State) (a : Word) : (s.setPc a).sp = s.sp := rfl
@[simp] theorem State.setPc_dt (s : State) (a : Word) : (s.setPc a).dt = s.dt := rfl
@[simp] theorem State.setPc_st (s : State) (a : Word) : (s.setPc a).st = s.st := rfl
@[simp] theorem State.setPc_fb (s : State) (a : Word) : (s.setPc a).fb = s.fb := rfl
@[simp] theorem State.setPc_key (s : State) (a : Word) : (s.setPc a).key = s.key := rfl
@[simp] theorem State.setPc_mem (s : State) (a : Word) : (s.setPc a).mem = s.mem := rfl
@[simp] theorem State.setPc_status (s : State) (a : Word) : (s.setPc a).status = s.status := rfl
@[simp] theorem State.setPc_config (s : State) (a : Word) : (s.setPc a).config = s.config := rfl
@[simp] theorem State.setPc_draws (s : State) (a : Word) : (s.setPc a).draws = s.draws := rfl
@[simp] theorem State.setPc_events (s : State) (a : Word) : (s.setPc a).events = s.events := rfl

/-! ### setDt -/

@[simp] theorem State.setDt_v (s : State) (b : Byte) : (s.setDt b).v = s.v := rfl
@[simp] theorem State.setDt_i (s : State) (b : Byte) : (s.setDt b).i = s.i := rfl
@[simp] theorem State.setDt_pc (s : State) (b : Byte) : (s.setDt b).pc = s.pc := rfl
@[simp] theorem State.setDt_stack (s : State) (b : Byte) : (s.setDt b).stack = s.stack := rfl
@[simp] theorem State.setDt_sp (s : State) (b : Byte) : (s.setDt b).sp = s.sp := rfl
@[simp] theorem State.setDt_dt (s : State) (b : Byte) : (s.setDt b).dt = b := rfl
@[simp] theorem State.setDt_st (s : State) (b : Byte) : (s.setDt b).st = s.st := rfl
@[simp] theorem State.setDt_fb (s : State) (b : Byte) : (s.setDt b).fb = s.fb := rfl
@[simp] theorem State.setDt_key (s : State) (b : Byte) : (s.setDt b).key = s.key := rfl
@[simp] theorem State.setDt_mem (s : State) (b : Byte) : (s.setDt b).mem = s.mem := rfl
@[simp] theorem State.setDt_status (s : State) (b : Byte) : (s.setDt b).status = s.status := rfl
@[simp] theorem State.setDt_config (s : State) (b : Byte) : (s.setDt b).config = s.config := rfl
@[simp] theorem State.setDt_draws (s : State) (b : Byte) : (s.setDt b).draws = s.draws := rfl
@[simp] theorem State.setDt_events (s : State) (b : Byte) : (s.setDt b).events = s.events := rfl

/-! ### setSt -/

@[simp] theorem State.setSt_v (s : State) (b : Byte) : (s.setSt b).v = s.v := rfl
@[simp] theorem State.setSt_i (s : State) (b : Byte) : (s.setSt b).i = s.i := rfl
@[simp] theorem State.setSt_pc (s : State) (b : Byte) : (s.setSt b).pc = s.pc := rfl
@[simp] theorem State.setSt_stack (s : State) (b : Byte) : (s.setSt b).stack = s.stack := rfl
@[simp] theorem State.setSt_sp (s : State) (b : Byte) : (s.setSt b).sp = s.sp := rfl
@[simp] theorem State.setSt_dt (s : State) (b : Byte) : (s.setSt b).dt = s.dt := rfl
@[simp] theorem State.setSt_st (s : State) (b : Byte) : (s.setSt b).st = b := rfl
@[simp] theorem State.setSt_fb (s : State) (b : Byte) : (s.setSt b).fb = s.fb := rfl
@[simp] theorem State.setSt_key (s : State) (b : Byte) : (s.setSt b).key = s.key := rfl
@[simp] theorem State.setSt_mem (s : State) (b : Byte) : (s.setSt b).mem = s.mem := rfl
@[simp] theorem State.setSt_status (s : State) (b : Byte) : (s.setSt b).status = s.status := rfl
@[simp] theorem State.setSt_config (s : State) (b : Byte) : (s.setSt b).config = s.config := rfl
@[simp] theorem State.setSt_draws (s : State) (b : Byte) : (s.setSt b).draws = s.draws := rfl
@[simp] theorem State.setSt_events (s : State) (b : Byte) : (s.setSt b).events = s.events := rfl

/-! ### setFb -/

@[simp] theorem State.setFb_v (s : State) (f : Framebuffer) : (s.setFb f).v = s.v := rfl
@[simp] theorem State.setFb_i (s : State) (f : Framebuffer) : (s.setFb f).i = s.i := rfl
@[simp] theorem State.setFb_pc (s : State) (f : Framebuffer) : (s.setFb f).pc = s.pc := rfl
@[simp] theorem State.setFb_stack (s : State) (f : Framebuffer) : (s.setFb f).stack = s.stack := rfl
@[simp] theorem State.setFb_sp (s : State) (f : Framebuffer) : (s.setFb f).sp = s.sp := rfl
@[simp] theorem State.setFb_dt (s : State) (f : Framebuffer) : (s.setFb f).dt = s.dt := rfl
@[simp] theorem State.setFb_st (s : State) (f : Framebuffer) : (s.setFb f).st = s.st := rfl
@[simp] theorem State.setFb_fb (s : State) (f : Framebuffer) : (s.setFb f).fb = f := rfl
@[simp] theorem State.setFb_key (s : State) (f : Framebuffer) : (s.setFb f).key = s.key := rfl
@[simp] theorem State.setFb_mem (s : State) (f : Framebuffer) : (s.setFb f).mem = s.mem := rfl
@[simp] theorem State.setFb_status (s : State) (f : Framebuffer) : (s.setFb f).status = s.status := rfl
@[simp] theorem State.setFb_config (s : State) (f : Framebuffer) : (s.setFb f).config = s.config := rfl
@[simp] theorem State.setFb_draws (s : State) (f : Framebuffer) : (s.setFb f).draws = s.draws := rfl
@[simp] theorem State.setFb_events (s : State) (f : Framebuffer) : (s.setFb f).events = s.events := rfl

/-! ### setMem -/

@[simp] theorem State.setMem_v (s : State) (m : List Host.Cell) : (s.setMem m).v = s.v := rfl
@[simp] theorem State.setMem_i (s : State) (m : List Host.Cell) : (s.setMem m).i = s.i := rfl
@[simp] theorem State.setMem_pc (s : State) (m : List Host.Cell) : (s.setMem m).pc = s.pc := rfl
@[simp] theorem State.setMem_stack (s : State) (m : List Host.Cell) : (s.setMem m).stack = s.stack := rfl
@[simp] theorem State.setMem_sp (s : State) (m : List Host.Cell) : (s.setMem m).sp = s.sp := rfl
@[simp] theorem State.setMem_dt (s : State) (m : List Host.Cell) : (s.setMem m).dt = s.dt := rfl
@[simp] theorem State.setMem_st (s : State) (m : List Host.Cell) : (s.setMem m).st = s.st := rfl
@[simp] theorem State.setMem_fb (s : State) (m : List Host.Cell) : (s.setMem m).fb = s.fb := rfl
@[simp] theorem State.setMem_key (s : State) (m : List Host.Cell) : (s.setMem m).key = s.key := rfl
@[simp] theorem State.setMem_mem (s : State) (m : List Host.Cell) : (s.setMem m).mem = m := rfl
@[simp] theorem State.setMem_status (s : State) (m : List Host.Cell) : (s.setMem m).status = s.status := rfl
@[simp] theorem State.setMem_config (s : State) (m : List Host.Cell) : (s.setMem m).config = s.config := rfl
@[simp] theorem State.setMem_draws (s : State) (m : List Host.Cell) : (s.setMem m).draws = s.draws := rfl
@[simp] theorem State.setMem_events (s : State) (m : List Host.Cell) : (s.setMem m).events = s.events := rfl

/-! ### setStatus -/

@[simp] theorem State.setStatus_v (s : State) (q : Status) : (s.setStatus q).v = s.v := rfl
@[simp] theorem State.setStatus_i (s : State) (q : Status) : (s.setStatus q).i = s.i := rfl
@[simp] theorem State.setStatus_pc (s : State) (q : Status) : (s.setStatus q).pc = s.pc := rfl
@[simp] theorem State.setStatus_stack (s : State) (q : Status) : (s.setStatus q).stack = s.stack := rfl
@[simp] theorem State.setStatus_sp (s : State) (q : Status) : (s.setStatus q).sp = s.sp := rfl
@[simp] theorem State.setStatus_dt (s : State) (q : Status) : (s.setStatus q).dt = s.dt := rfl
@[simp] theorem State.setStatus_st (s : State) (q : Status) : (s.setStatus q).st = s.st := rfl
@[simp] theorem State.setStatus_fb (s : State) (q : Status) : (s.setStatus q).fb = s.fb := rfl
@[simp] theorem State.setStatus_key (s : State) (q : Status) : (s.setStatus q).key = s.key := rfl
@[simp] theorem State.setStatus_mem (s : State) (q : Status) : (s.setStatus q).mem = s.mem := rfl
@[simp] theorem State.setStatus_status (s : State) (q : Status) : (s.setStatus q).status = q := rfl
@[simp] theorem State.setStatus_config (s : State) (q : Status) : (s.setStatus q).config = s.config := rfl
@[simp] theorem State.setStatus_draws (s : State) (q : Status) : (s.setStatus q).draws = s.draws := rfl
@[simp] theorem State.setStatus_events (s : State) (q : Status) : (s.setStatus q).events = s.events := rfl

/-! ### setV, emit, clearEvents, takeDraw -/

@[simp] theorem State.setV_i (s : State) (r : Nibble) (b : Byte) : (s.setV r b).i = s.i := rfl
@[simp] theorem State.setV_pc (s : State) (r : Nibble) (b : Byte) : (s.setV r b).pc = s.pc := rfl
@[simp] theorem State.setV_stack (s : State) (r : Nibble) (b : Byte) : (s.setV r b).stack = s.stack := rfl
@[simp] theorem State.setV_sp (s : State) (r : Nibble) (b : Byte) : (s.setV r b).sp = s.sp := rfl
@[simp] theorem State.setV_dt (s : State) (r : Nibble) (b : Byte) : (s.setV r b).dt = s.dt := rfl
@[simp] theorem State.setV_st (s : State) (r : Nibble) (b : Byte) : (s.setV r b).st = s.st := rfl
@[simp] theorem State.setV_fb (s : State) (r : Nibble) (b : Byte) : (s.setV r b).fb = s.fb := rfl
@[simp] theorem State.setV_key (s : State) (r : Nibble) (b : Byte) : (s.setV r b).key = s.key := rfl
@[simp] theorem State.setV_mem (s : State) (r : Nibble) (b : Byte) : (s.setV r b).mem = s.mem := rfl
@[simp] theorem State.setV_status (s : State) (r : Nibble) (b : Byte) : (s.setV r b).status = s.status := rfl
@[simp] theorem State.setV_config (s : State) (r : Nibble) (b : Byte) : (s.setV r b).config = s.config := rfl
@[simp] theorem State.setV_draws (s : State) (r : Nibble) (b : Byte) : (s.setV r b).draws = s.draws := rfl
@[simp] theorem State.setV_events (s : State) (r : Nibble) (b : Byte) : (s.setV r b).events = s.events := rfl
@[simp] theorem State.emit_v (s : State) (es : List Event) : (s.emit es).v = s.v := rfl
@[simp] theorem State.emit_i (s : State) (es : List Event) : (s.emit es).i = s.i := rfl
@[simp] theorem State.emit_pc (s : State) (es : List Event) : (s.emit es).pc = s.pc := rfl
@[simp] theorem State.emit_stack (s : State) (es : List Event) : (s.emit es).stack = s.stack := rfl
@[simp] theorem State.emit_sp (s : State) (es : List Event) : (s.emit es).sp = s.sp := rfl
@[simp] theorem State.emit_dt (s : State) (es : List Event) : (s.emit es).dt = s.dt := rfl
@[simp] theorem State.emit_st (s : State) (es : List Event) : (s.emit es).st = s.st := rfl
@[simp] theorem State.emit_fb (s : State) (es : List Event) : (s.emit es).fb = s.fb := rfl
@[simp] theorem State.emit_key (s : State) (es : List Event) : (s.emit es).key = s.key := rfl
@[simp] theorem State.emit_mem (s : State) (es : List Event) : (s.emit es).mem = s.mem := rfl
@[simp] theorem State.emit_status (s : State) (es : List Event) : (s.emit es).status = s.status := rfl
@[simp] theorem State.emit_config (s : State) (es : List Event) : (s.emit es).config = s.config := rfl
@[simp] theorem State.emit_draws (s : State) (es : List Event) : (s.emit es).draws = s.draws := rfl
@[simp] theorem State.emit_events (s : State) (es : List Event) : (s.emit es).events = s.events ++ es := rfl
@[simp] theorem State.clearEvents_v (s : State) : s.clearEvents.v = s.v := rfl
@[simp] theorem State.clearEvents_i (s : State) : s.clearEvents.i = s.i := rfl
@[simp] theorem State.clearEvents_pc (s : State) : s.clearEvents.pc = s.pc := rfl
@[simp] theorem State.clearEvents_stack (s : State) : s.clearEvents.stack = s.stack := rfl
@[simp] theorem State.clearEvents_sp (s : State) : s.clearEvents.sp = s.sp := rfl
@[simp] theorem State.clearEvents_dt (s : State) : s.clearEvents.dt = s.dt := rfl
@[simp] theorem State.clearEvents_st (s : State) : s.clearEvents.st = s.st := rfl
@[simp] theorem State.clearEvents_fb (s : State) : s.clearEvents.fb = s.fb := rfl
@[simp] theorem State.clearEvents_key (s : State) : s.clearEvents.key = s.key := rfl
@[simp] theorem State.clearEvents_mem (s : State) : s.clearEvents.mem = s.mem := rfl
@[simp] theorem State.clearEvents_status (s : State) : s.clearEvents.status = s.status := rfl
@[simp] theorem State.clearEvents_config (s : State) : s.clearEvents.config = s.config := rfl
@[simp] theorem State.clearEvents_draws (s : State) : s.clearEvents.draws = s.draws := rfl
@[simp] theorem State.clearEvents_events (s : State) : s.clearEvents.events = [] := rfl
@[simp] theorem State.takeDraw_v (s : State) : s.takeDraw.2.v = s.v := rfl
@[simp] theorem State.takeDraw_i (s : State) : s.takeDraw.2.i = s.i := rfl
@[simp] theorem State.takeDraw_pc (s : State) : s.takeDraw.2.pc = s.pc := rfl
@[simp] theorem State.takeDraw_stack (s : State) : s.takeDraw.2.stack = s.stack := rfl
@[simp] theorem State.takeDraw_sp (s : State) : s.takeDraw.2.sp = s.sp := rfl
@[simp] theorem State.takeDraw_dt (s : State) : s.takeDraw.2.dt = s.dt := rfl
@[simp] theorem State.takeDraw_st (s : State) : s.takeDraw.2.st = s.st := rfl
@[simp] theorem State.takeDraw_fb (s : State) : s.takeDraw.2.fb = s.fb := rfl
@[simp] theorem State.takeDraw_key (s : State) : s.takeDraw.2.key = s.key := rfl
@[simp] theorem State.takeDraw_mem (s : State) : s.takeDraw.2.mem = s.mem := rfl
@[simp] theorem State.takeDraw_status (s : State) : s.takeDraw.2.status = s.status := rfl
@[simp] theorem State.takeDraw_config (s : State) : s.takeDraw.2.config = s.config := rfl
@[simp] theorem State.takeDraw_draws (s : State) : s.takeDraw.2.draws = s.draws + 1 := rfl
@[simp] theorem State.takeDraw_events (s : State) : s.takeDraw.2.events = s.events := rfl
@[simp] theorem State.takeDraw_value (s : State) : s.takeDraw.1 = Config.randomByte s.draws := rfl

/-! ### writeBytes, raiseFatal, tick -/

@[simp] theorem State.writeBytes_v (s : State) (a : Nat) (bs : List Byte) : (s.writeBytes a bs).v = s.v := rfl
@[simp] theorem State.writeBytes_i (s : State) (a : Nat) (bs : List Byte) : (s.writeBytes a bs).i = s.i := rfl
@[simp] theorem State.writeBytes_pc (s : State) (a : Nat) (bs : List Byte) : (s.writeBytes a bs).pc = s.pc := rfl
@[simp] theorem State.writeBytes_stack (s : State) (a : Nat) (bs : List Byte) : (s.writeBytes a bs).stack = s.stack := rfl
@[simp] theorem State.writeBytes_sp (s : State) (a : Nat) (bs : List Byte) : (s.writeBytes a bs).sp = s.sp := rfl
@[simp] theorem State.writeBytes_dt (s : State) (a : Nat) (bs : List Byte) : (s.writeBytes a bs).dt = s.dt := rfl
@[simp] theorem State.writeBytes_st (s : State) (a : Nat) (bs : List Byte) : (s.writeBytes a bs).st = s.st := rfl
@[simp] theorem State.writeBytes_fb (s : State) (a : Nat) (bs : List Byte) : (s.writeBytes a bs).fb = s.fb := rfl
@[simp] theorem State.writeBytes_key (s : State) (a : Nat) (bs : List Byte) : (s.writeBytes a bs).key = s.key := rfl
@[simp] theorem State.writeBytes_status (s : State) (a : Nat) (bs : List Byte) : (s.writeBytes a bs).status = s.status := rfl
@[simp] theorem State.writeBytes_config (s : State) (a : Nat) (bs : List Byte) : (s.writeBytes a bs).config = s.config := rfl
@[simp] theorem State.writeBytes_draws (s : State) (a : Nat) (bs : List Byte) : (s.writeBytes a bs).draws = s.draws := rfl
@[simp] theorem State.writeBytes_events (s : State) (a : Nat) (bs : List Byte) : (s.writeBytes a bs).events = s.events := rfl
@[simp] theorem State.raiseFatal_v (s : State) (f : Fatal) (w : Option Word) : (s.raiseFatal f w).v = s.v := rfl
@[simp] theorem State.raiseFatal_i (s : State) (f : Fatal) (w : Option Word) : (s.raiseFatal f w).i = s.i := rfl
@[simp] theorem State.raiseFatal_pc (s : State) (f : Fatal) (w : Option Word) : (s.raiseFatal f w).pc = s.pc := rfl
@[simp] theorem State.raiseFatal_stack (s : State) (f : Fatal) (w : Option Word) : (s.raiseFatal f w).stack = s.stack := rfl
@[simp] theorem State.raiseFatal_sp (s : State) (f : Fatal) (w : Option Word) : (s.raiseFatal f w).sp = s.sp := rfl
@[simp] theorem State.raiseFatal_dt (s : State) (f : Fatal) (w : Option Word) : (s.raiseFatal f w).dt = s.dt := rfl
@[simp] theorem State.raiseFatal_st (s : State) (f : Fatal) (w : Option Word) : (s.raiseFatal f w).st = s.st := rfl
@[simp] theorem State.raiseFatal_fb (s : State) (f : Fatal) (w : Option Word) : (s.raiseFatal f w).fb = s.fb := rfl
@[simp] theorem State.raiseFatal_key (s : State) (f : Fatal) (w : Option Word) : (s.raiseFatal f w).key = s.key := rfl
@[simp] theorem State.raiseFatal_mem (s : State) (f : Fatal) (w : Option Word) : (s.raiseFatal f w).mem = s.mem := rfl
@[simp] theorem State.raiseFatal_config (s : State) (f : Fatal) (w : Option Word) : (s.raiseFatal f w).config = s.config := rfl
@[simp] theorem State.raiseFatal_draws (s : State) (f : Fatal) (w : Option Word) : (s.raiseFatal f w).draws = s.draws := rfl
@[simp] theorem State.raiseFatal_events (s : State) (f : Fatal) (w : Option Word) : (s.raiseFatal f w).events = s.events := rfl
@[simp] theorem State.raiseFatal_status (s : State) (f : Fatal) (w : Option Word) :
    (s.raiseFatal f w).status = .fault ⟨f.kind, s.pc, w, f.addr⟩ := rfl
@[simp] theorem State.tick_v (s : State) : s.tick.v = s.v := rfl
@[simp] theorem State.tick_i (s : State) : s.tick.i = s.i := rfl
@[simp] theorem State.tick_pc (s : State) : s.tick.pc = s.pc := rfl
@[simp] theorem State.tick_stack (s : State) : s.tick.stack = s.stack := rfl
@[simp] theorem State.tick_sp (s : State) : s.tick.sp = s.sp := rfl
@[simp] theorem State.tick_dt (s : State) : s.tick.dt = tickTimer s.dt := rfl
@[simp] theorem State.tick_st (s : State) : s.tick.st = tickTimer s.st := rfl
@[simp] theorem State.tick_fb (s : State) : s.tick.fb = s.fb := rfl
@[simp] theorem State.tick_key (s : State) : s.tick.key = s.key := rfl
@[simp] theorem State.tick_mem (s : State) : s.tick.mem = s.mem := rfl
@[simp] theorem State.tick_status (s : State) : s.tick.status = s.status := rfl
@[simp] theorem State.tick_config (s : State) : s.tick.config = s.config := rfl
@[simp] theorem State.tick_draws (s : State) : s.tick.draws = s.draws := rfl
@[simp] theorem State.tick_events (s : State) : s.tick.events = s.events := rfl

end Sys2Proof.Machine
end

