-- ==== Sys2Proof/Laws/Registers.lean ====
section
/-! SUPPORT. Laws/Registers.lean: read after write for the registers, the latch and the framebuffer cells, and what leaves the
readers alone. -/

namespace Sys2Proof.Machine

/-! ### General registers -/

theorem State.getV_setV (s : State) (r q : Nibble) (b : Byte) :
    (s.setV r b).getV q = if q = r then b else s.getV q := by
  have hr : r.toNat < 16 := r.isLt
  have hq : q.toNat < 16 := q.isLt
  by_cases h : q = r
  · subst h; simp [State.getV, State.setV]
  · have : ¬ r.toNat = q.toNat := fun e => h (BitVec.eq_of_toNat_eq e.symm)
    simp [State.getV, State.setV, h, this]

@[simp] theorem State.getV_setV_self (s : State) (r : Nibble) (b : Byte) : (s.setV r b).getV r = b := by
  simp [State.getV_setV]

theorem State.getV_setV_ne (s : State) {r q : Nibble} (b : Byte) (h : q ≠ r) : (s.setV r b).getV q = s.getV q := by
  simp [State.getV_setV, h]

/-- A reader of the registers sees the register file alone. -/
theorem State.getV_congr {s t : State} (h : t.v = s.v) (r : Nibble) : t.getV r = s.getV r := by
  simp only [State.getV, h]

@[simp] theorem State.getV_setI (s : State) (a : Word) (r : Nibble) : (s.setI a).getV r = s.getV r := rfl
@[simp] theorem State.getV_setPc (s : State) (a : Word) (r : Nibble) : (s.setPc a).getV r = s.getV r := rfl
@[simp] theorem State.getV_setDt (s : State) (b : Byte) (r : Nibble) : (s.setDt b).getV r = s.getV r := rfl
@[simp] theorem State.getV_setSt (s : State) (b : Byte) (r : Nibble) : (s.setSt b).getV r = s.getV r := rfl
@[simp] theorem State.getV_setFb (s : State) (f : Framebuffer) (r : Nibble) : (s.setFb f).getV r = s.getV r := rfl
@[simp] theorem State.getV_setMem (s : State) (m : List Host.Cell) (r : Nibble) : (s.setMem m).getV r = s.getV r := rfl
@[simp] theorem State.getV_setStatus (s : State) (q : Status) (r : Nibble) : (s.setStatus q).getV r = s.getV r := rfl
@[simp] theorem State.getV_emit (s : State) (es : List Event) (r : Nibble) : (s.emit es).getV r = s.getV r := rfl
@[simp] theorem State.getV_clearEvents (s : State) (r : Nibble) : s.clearEvents.getV r = s.getV r := rfl
@[simp] theorem State.getV_takeDraw (s : State) (r : Nibble) : s.takeDraw.2.getV r = s.getV r := rfl
@[simp] theorem State.getV_writeBytes (s : State) (a : Nat) (bs : List Byte) (r : Nibble) :
    (s.writeBytes a bs).getV r = s.getV r := rfl
@[simp] theorem State.getV_raiseFatal (s : State) (f : Fatal) (w : Option Word) (r : Nibble) :
    (s.raiseFatal f w).getV r = s.getV r := rfl
@[simp] theorem State.getV_tick (s : State) (r : Nibble) : s.tick.getV r = s.getV r := rfl

/-- What `setRegsFrom` leaves: registers k … k+length−1 hold the bytes in order, every other register its old value. -/
theorem State.getV_setRegsFrom (bs : List Byte) : ∀ (s : State) (k : Nat), k + bs.length ≤ 16 → ∀ q : Nibble,
    (s.setRegsFrom k bs).getV q =
      if h : k ≤ q.toNat ∧ q.toNat - k < bs.length then bs[q.toNat - k] else s.getV q := by
  induction bs with
  | nil => intro s k _ q; simp [State.setRegsFrom]
  | cons b bs ih =>
    intro s k hk q
    simp only [List.length_cons] at hk
    rw [State.setRegsFrom, ih _ (k + 1) (by omega) q, State.getV_setV]
    have hq : (q = BitVec.ofNat 4 k) ↔ q.toNat = k := by
      constructor
      · rintro rfl; simp; omega
      · intro e; apply BitVec.eq_of_toNat_eq; simp; omega
    simp only [hq, List.length_cons]
    by_cases h1 : q.toNat = k
    · simp [h1]
    · by_cases h2 : k + 1 ≤ q.toNat ∧ q.toNat - (k + 1) < bs.length
      · rw [dif_pos h2, dif_pos (by omega)]
        have : q.toNat - k = (q.toNat - (k + 1)) + 1 := by omega
        simp [this]
      · rw [dif_neg h2, if_neg h1, dif_neg (by omega)]

/-- `setRegsFrom` changes the register file alone. -/
theorem State.setRegsFrom_eq (bs : List Byte) : ∀ (s : State) (k : Nat),
    s.setRegsFrom k bs = { s with v := (s.setRegsFrom k bs).v } := by
  induction bs with
  | nil => intro s k; rfl
  | cons b bs ih => intro s k; rw [State.setRegsFrom, ih]; rfl

/-! ### The latch -/

theorem State.keyAt_setSlot (s : State) (k q : Nibble) (b : Bool) :
    ({ s with key := s.key.set k.toNat b (by exact k.isLt), events := [] } : State).keyAt q = if q = k then b else s.keyAt q := by
  have hk : k.toNat < 16 := k.isLt
  have hq : q.toNat < 16 := q.isLt
  by_cases h : q = k
  · subst h; simp [State.keyAt]
  · have : ¬ k.toNat = q.toNat := fun e => h (BitVec.eq_of_toNat_eq e.symm)
    simp [State.keyAt, h, this]

/-! ### Framebuffer cells -/

theorem Framebuffer.cell_setCell (f : Framebuffer) (x x' : Fin 64) (y y' : Fin 32) (b : Bool) :
    Framebuffer.cell (Framebuffer.setCell f x y b) x' y' = if x' = x ∧ y' = y then b else Framebuffer.cell f x' y' := by
  by_cases hy : y' = y
  · subst hy
    by_cases hx : x' = x
    · subst hx; simp [Framebuffer.cell, Framebuffer.setCell]
    · have : ¬ x.val = x'.val := fun e => hx (Fin.ext e.symm)
      simp [Framebuffer.cell, Framebuffer.setCell, hx, this]
  · have : ¬ y.val = y'.val := fun e => hy (Fin.ext e.symm)
    simp [Framebuffer.cell, Framebuffer.setCell, hy, this]

@[simp] theorem Framebuffer.cell_blank (x : Fin 64) (y : Fin 32) : Framebuffer.cell Framebuffer.blank x y = false := by
  simp [Framebuffer.cell, Framebuffer.blank]

/-- Two framebuffers with the same cells are the same. -/
theorem Framebuffer.ext_cell {f g : Framebuffer} (h : ∀ x y, Framebuffer.cell f x y = Framebuffer.cell g x y) : f = g := by
  apply Vector.ext
  intro y hy
  apply Vector.ext
  intro x hx
  exact h ⟨x, hx⟩ ⟨y, hy⟩

end Sys2Proof.Machine
end

