-- ==== Sys2Proof/Laws/Memory.lean ====
section
/-! SUPPORT. Laws/Memory.lean: read after write, the canonical form, and that equal memories are equal data. -/

namespace Sys2Proof.Machine

/-! ### The list operations -/

theorem Memory.lookup_put (a a' : Nat) (b : Byte) (m : List Host.Cell) :
    Memory.lookup a' (Memory.put a b m) = if a' = a then some b else Memory.lookup a' m := by
  induction m with
  | nil => simp [Memory.put, Memory.lookup, eq_comm (a := a)]
  | cons c m ih =>
    simp only [Memory.put]
    split
    · simp [Memory.lookup, eq_comm (a := a)]
    · split
      · rename_i hc
        by_cases h : a' = a
        · simp [Memory.lookup, h]
        · have h1 : ¬ a = a' := fun e => h e.symm
          have h2 : ¬ c.1 = a' := by omega
          simp [Memory.lookup, h, h1, h2]
      · by_cases h : c.1 = a'
        · have : ¬ a' = a := by omega
          simp [Memory.lookup, h, this]
        · simp [Memory.lookup, h, ih]

theorem Memory.lookup_drop (a a' : Nat) (m : List Host.Cell) :
    Memory.lookup a' (Memory.drop a m) = if a' = a then none else Memory.lookup a' m := by
  unfold Memory.drop
  induction m with
  | nil => simp [Memory.lookup]
  | cons c m ih =>
    by_cases hc : c.1 = a
    · rw [List.filter_cons_of_neg (by simp [hc]), ih]
      by_cases h : a' = a
      · simp [h]
      · have : ¬ c.1 = a' := by omega
        simp [h, Memory.lookup, this]
    · rw [List.filter_cons_of_pos (by simp [hc])]
      by_cases h : c.1 = a'
      · have : ¬ a' = a := by omega
        simp [Memory.lookup, h, this]
      · simp [Memory.lookup, h, ih]

theorem Memory.mem_put {a : Nat} {b : Byte} {m : List Host.Cell} {c : Host.Cell} (h : c ∈ Memory.put a b m) :
    c = (a, b) ∨ c ∈ m := by
  induction m with
  | nil => simpa [Memory.put] using h
  | cons d m ih =>
    simp only [Memory.put] at h
    split at h
    · simpa using h
    · split at h
      · rcases List.mem_cons.1 h with h | h
        · exact .inl h
        · exact .inr (List.mem_cons_of_mem _ h)
      · rcases List.mem_cons.1 h with h | h
        · exact .inr (by simp [h])
        · exact (ih h).imp id (List.mem_cons_of_mem _)

/-! ### Reading after writing one byte -/

/-- A write gives its own address the value and leaves every other address, from every memory. -/
theorem Memory.read_write (font : FontRom) (m : List Host.Cell) (a a' : Nat) (b : Byte) :
    Memory.read font (Memory.write font m a b) a' = if a' = a then b else Memory.read font m a' := by
  unfold Memory.read Memory.write
  by_cases hb : b = Memory.resetByte font a
  · rw [if_pos hb, Memory.lookup_drop]
    by_cases h : a' = a
    · subst h; simp [hb]
    · simp [h]
  · rw [if_neg hb, Memory.lookup_put]
    by_cases h : a' = a <;> simp [h]

/-- A run of bytes: each address of the run reads its byte, every other address as before. -/
theorem Memory.read_writeBytes (font : FontRom) (bs : List Byte) : ∀ (m : List Host.Cell) (a a' : Nat),
    Memory.read font (Memory.writeBytes font m a bs) a' =
      if h : a ≤ a' ∧ a' - a < bs.length then bs[a' - a] else Memory.read font m a' := by
  induction bs with
  | nil => intro m a a'; simp [Memory.writeBytes]
  | cons b bs ih =>
    intro m a a'
    rw [Memory.writeBytes, ih, Memory.read_write]
    simp only [List.length_cons]
    by_cases h1 : a' = a
    · simp [h1]
    · by_cases h2 : a + 1 ≤ a' ∧ a' - (a + 1) < bs.length
      · rw [dif_pos h2, dif_pos (by omega)]
        have : a' - a = (a' - (a + 1)) + 1 := by omega
        simp [this]
      · rw [dif_neg h2, if_neg h1, dif_neg (by omega)]

/-! ### The canonical form -/

theorem Memory.wf_nil (font : FontRom) : Memory.wf font [] := by simp [Memory.wf]

theorem Memory.wf_drop {font : FontRom} {m : List Host.Cell} (h : Memory.wf font m) (a : Nat) :
    Memory.wf font (Memory.drop a m) :=
  ⟨h.1.filter _, fun c hc => h.2 c (List.mem_filter.1 hc).1⟩

theorem Memory.pairwise_put {m : List Host.Cell} (h : m.Pairwise (fun c d => c.1 < d.1)) (a : Nat) (b : Byte) :
    (Memory.put a b m).Pairwise (fun c d => c.1 < d.1) := by
  induction m with
  | nil => simp [Memory.put]
  | cons c m ih =>
    obtain ⟨h1, h2⟩ := List.pairwise_cons.1 h
    simp only [Memory.put]
    split
    · rename_i hac
      refine List.pairwise_cons.2 ⟨fun d hd => ?_, h⟩
      rcases List.mem_cons.1 hd with rfl | hd
      · exact hac
      · exact Nat.lt_trans hac (h1 d hd)
    · split
      · rename_i hca
        exact List.pairwise_cons.2 ⟨fun d hd => hca ▸ h1 d hd, h2⟩
      · refine List.pairwise_cons.2 ⟨fun d hd => ?_, ih h2⟩
        rcases Memory.mem_put hd with rfl | hd
        · show c.1 < a; omega
        · exact h1 d hd

theorem Memory.wf_put {font : FontRom} {m : List Host.Cell} (h : Memory.wf font m) {a : Nat} {b : Byte} (ha : a < 4096)
    (hb : b ≠ Memory.resetByte font a) : Memory.wf font (Memory.put a b m) := by
  refine ⟨Memory.pairwise_put h.1 a b, fun c hc => ?_⟩
  rcases Memory.mem_put hc with rfl | hc
  · exact ⟨ha, hb⟩
  · exact h.2 c hc

/-- One write inside the address space keeps the canonical form. -/
theorem Memory.wf_write {font : FontRom} {m : List Host.Cell} (h : Memory.wf font m) {a : Nat} (ha : a < 4096) (b : Byte) :
    Memory.wf font (Memory.write font m a b) := by
  unfold Memory.write
  split
  · exact Memory.wf_drop h a
  · exact Memory.wf_put h ha ‹_›

/-- A run of writes inside the address space keeps the canonical form. -/
theorem Memory.wf_writeBytes {font : FontRom} (bs : List Byte) : ∀ {m : List Host.Cell} {a : Nat}, Memory.wf font m →
    a + bs.length ≤ 4096 → Memory.wf font (Memory.writeBytes font m a bs) := by
  induction bs with
  | nil => intro m a h _; exact h
  | cons b bs ih =>
    intro m a h ha
    simp only [List.length_cons] at ha
    exact ih (Memory.wf_write h (by omega) b) (by omega)

theorem Memory.lookup_of_mem {m : List Host.Cell} (h : m.Pairwise (fun c d => c.1 < d.1)) {c : Host.Cell} (hc : c ∈ m) :
    Memory.lookup c.1 m = some c.2 := by
  induction m with
  | nil => simp at hc
  | cons d m ih =>
    obtain ⟨h1, h2⟩ := List.pairwise_cons.1 h
    rcases List.mem_cons.1 hc with rfl | hc
    · simp [Memory.lookup]
    · have : ¬ d.1 = c.1 := Nat.ne_of_lt (h1 c hc)
      simp [Memory.lookup, this, ih h2 hc]

theorem Memory.mem_of_lookup {m : List Host.Cell} {a : Nat} {b : Byte} (h : Memory.lookup a m = some b) : (a, b) ∈ m := by
  induction m with
  | nil => simp [Memory.lookup] at h
  | cons d m ih =>
    simp only [Memory.lookup] at h
    split at h
    · rename_i hd; cases h; exact List.mem_cons.2 (.inl (by rw [← hd]))
    · exact List.mem_cons_of_mem _ (ih h)

/-- In the canonical form the list is exactly the addresses that do not read as after reset. -/
theorem Memory.mem_iff_read {font : FontRom} {m : List Host.Cell} (h : Memory.wf font m) (a : Nat) (b : Byte) :
    (a, b) ∈ m ↔ Memory.read font m a = b ∧ b ≠ Memory.resetByte font a := by
  constructor
  · intro hm
    have := Memory.lookup_of_mem h.1 hm
    exact ⟨by simp [Memory.read, this], (h.2 _ hm).2⟩
  · rintro ⟨hr, hb⟩
    unfold Memory.read at hr
    cases hl : Memory.lookup a m with
    | none => rw [hl] at hr; exact absurd hr.symm hb
    | some c => rw [hl] at hr; cases hr; exact Memory.mem_of_lookup hl

/-- Two canonical memories that read alike are the same list: equal memories are equal data. -/
theorem Memory.ext_read {font : FontRom} {m n : List Host.Cell} (hm : Memory.wf font m) (hn : Memory.wf font n)
    (h : ∀ a, Memory.read font m a = Memory.read font n a) : m = n := by
  have hp : m.Perm n := by
    rw [List.perm_ext_iff_of_nodup (hm.1.imp fun {a b} hl e => by simp [e] at hl)
      (hn.1.imp fun {a b} hl e => by simp [e] at hl)]
    rintro ⟨a, b⟩
    rw [Memory.mem_iff_read hm, Memory.mem_iff_read hn, h]
  exact hp.eq_of_pairwise (fun a b _ _ h1 h2 => absurd h1 (Nat.lt_asymm h2)) hm.1 hn.1

/-! ### The state's readers and writers -/

/-- A reader of memory sees the list and the font alone. -/
theorem State.readByte_congr {s t : State} (hm : t.mem = s.mem) (hc : t.config = s.config) (a : Nat) :
    t.readByte a = s.readByte a := by simp only [State.readByte, hm, hc]

@[simp] theorem State.readByte_setV (s : State) (r : Nibble) (b : Byte) (a : Nat) : (s.setV r b).readByte a = s.readByte a := rfl
@[simp] theorem State.readByte_setI (s : State) (w : Word) (a : Nat) : (s.setI w).readByte a = s.readByte a := rfl
@[simp] theorem State.readByte_setPc (s : State) (w : Word) (a : Nat) : (s.setPc w).readByte a = s.readByte a := rfl
@[simp] theorem State.readByte_setDt (s : State) (b : Byte) (a : Nat) : (s.setDt b).readByte a = s.readByte a := rfl
@[simp] theorem State.readByte_setSt (s : State) (b : Byte) (a : Nat) : (s.setSt b).readByte a = s.readByte a := rfl
@[simp] theorem State.readByte_setFb (s : State) (f : Framebuffer) (a : Nat) : (s.setFb f).readByte a = s.readByte a := rfl
@[simp] theorem State.readByte_setStatus (s : State) (q : Status) (a : Nat) : (s.setStatus q).readByte a = s.readByte a := rfl
@[simp] theorem State.readByte_emit (s : State) (es : List Event) (a : Nat) : (s.emit es).readByte a = s.readByte a := rfl
@[simp] theorem State.readByte_clearEvents (s : State) (a : Nat) : s.clearEvents.readByte a = s.readByte a := rfl
@[simp] theorem State.readByte_takeDraw (s : State) (a : Nat) : s.takeDraw.2.readByte a = s.readByte a := rfl
@[simp] theorem State.readByte_raiseFatal (s : State) (f : Fatal) (w : Option Word) (a : Nat) :
    (s.raiseFatal f w).readByte a = s.readByte a := rfl
@[simp] theorem State.readByte_tick (s : State) (a : Nat) : s.tick.readByte a = s.readByte a := rfl

/-- What `writeBytes` leaves to be read. -/
theorem State.readByte_writeBytes (s : State) (a a' : Nat) (bs : List Byte) :
    (s.writeBytes a bs).readByte a' = if h : a ≤ a' ∧ a' - a < bs.length then bs[a' - a] else s.readByte a' :=
  Memory.read_writeBytes s.config.fontRom bs s.mem a a'

@[simp] theorem State.length_readBytes (n : Nat) : ∀ (s : State) (a : Nat), (s.readBytes a n).length = n := by
  induction n with
  | zero => intro s a; rfl
  | succ n ih => intro s a; simp [State.readBytes, ih]

theorem State.getElem_readBytes (n : Nat) : ∀ (s : State) (a k : Nat) (h : k < (s.readBytes a n).length),
    (s.readBytes a n)[k] = s.readByte (a + k) := by
  induction n with
  | zero => intro s a k h; simp [State.readBytes] at h
  | succ n ih =>
    intro s a k h
    cases k with
    | zero => simp [State.readBytes]
    | succ k =>
      simp only [State.readBytes, List.getElem_cons_succ]
      rw [ih]; congr 1; omega

end Sys2Proof.Machine
end

