-- ==== Sys2Proof/Laws/Ops.lean ====
section
/-! SUPPORT. Laws/Ops.lean: what each shared operation can do, said once, for the proofs to cite. -/

namespace Sys2Proof.Machine

/-! ### The checks -/

theorem rangeFault_none_iff (a n : Nat) : rangeFault a n = none ↔ n = 0 ∨ a + n - 1 ≤ 0xFFF := by
  unfold rangeFault; split <;> simp <;> omega

theorem rangeFault_some {a n : Nat} (h0 : 0 < n) (h : 0xFFF < a + n - 1) :
    rangeFault a n = some ⟨.addressOutOfRange, some (max a 0x1000)⟩ := if_pos ⟨h0, h⟩

theorem fontFault_none_iff (a n : Nat) : fontFault a n = none ↔ n = 0 ∨ 0x50 ≤ a := by
  unfold fontFault; split <;> simp <;> omega

theorem storeFault_none_iff (a n : Nat) : storeFault a n = none ↔ n = 0 ∨ (a + n - 1 ≤ 0xFFF ∧ 0x50 ≤ a) := by
  unfold storeFault
  split
  · rename_i f h
    have : ¬ (n = 0 ∨ a + n - 1 ≤ 0xFFF) := fun e => by rw [(rangeFault_none_iff a n).2 e] at h; cases h
    simp; omega
  · rename_i h
    rw [fontFault_none_iff]
    have := (rangeFault_none_iff a n).1 h
    omega

/-- A store out of range reports the range (R53). -/
theorem storeFault_range {a n : Nat} (h0 : 0 < n) (h : 0xFFF < a + n - 1) :
    storeFault a n = some ⟨.addressOutOfRange, some (max a 0x1000)⟩ := by simp [storeFault, rangeFault_some h0 h]

/-- A store of at most 15 bytes that begins in the font reports the font (R49, R53). -/
theorem storeFault_font {a n : Nat} (h0 : 0 < n) (hn : n ≤ 16) (h : a < 0x50) :
    storeFault a n = some ⟨.fontWrite, some a⟩ := by
  have hr : rangeFault a n = none := (rangeFault_none_iff a n).2 (.inr (by omega))
  simp [storeFault, hr, fontFault, h0, h]

/-- Every fault of a store is one of the two. -/
theorem storeFault_cases {a n : Nat} {f : Fatal} (h : storeFault a n = some f) :
    f = ⟨.addressOutOfRange, some (max a 0x1000)⟩ ∨ (f = ⟨.fontWrite, some a⟩ ∧ a < 0x50) := by
  unfold storeFault rangeFault fontFault at h
  split at h
  · rename_i hr
    split at hr
    · cases hr; cases h; exact .inl rfl
    · cases hr
  · split at h
    · cases h; exact .inr ⟨rfl, by omega⟩
    · cases h

theorem rangeFault_cases {a n : Nat} {f : Fatal} (h : rangeFault a n = some f) :
    f = ⟨.addressOutOfRange, some (max a 0x1000)⟩ := by
  unfold rangeFault at h
  split at h
  · cases h; rfl
  · cases h

/-! ### Memory accesses -/

theorem State.memRead_ok_iff (s : State) (a n : Nat) (bs : List Byte) :
    s.memRead a n = .ok bs ↔ (n = 0 ∨ a + n - 1 ≤ 0xFFF) ∧ bs = s.readBytes a n := by
  unfold State.memRead
  rw [← rangeFault_none_iff]
  split
  · rename_i h; simp [h]
  · rename_i h; simp [h, eq_comm]

theorem State.memRead_error {s : State} {a n : Nat} (h0 : 0 < n) (h : 0xFFF < a + n - 1) :
    s.memRead a n = .error ⟨.addressOutOfRange, some (max a 0x1000)⟩ := by simp [State.memRead, rangeFault_some h0 h]

theorem State.memRead_error_cases {s : State} {a n : Nat} {f : Fatal} (h : s.memRead a n = .error f) :
    f = ⟨.addressOutOfRange, some (max a 0x1000)⟩ := by
  unfold State.memRead at h
  split at h
  · rename_i hr; cases h; exact rangeFault_cases hr
  · cases h

theorem State.memWrite_ok_iff (s t : State) (a : Nat) (bs : List Byte) :
    s.memWrite a bs = .ok t ↔ (bs.length = 0 ∨ (a + bs.length - 1 ≤ 0xFFF ∧ 0x50 ≤ a)) ∧ t = s.writeBytes a bs := by
  unfold State.memWrite
  rw [← storeFault_none_iff]
  split
  · rename_i h; simp [h]
  · rename_i h; simp [h, eq_comm]

theorem State.memWrite_error_cases {s : State} {a : Nat} {bs : List Byte} {f : Fatal} (h : s.memWrite a bs = .error f) :
    f = ⟨.addressOutOfRange, some (max a 0x1000)⟩ ∨ (f = ⟨.fontWrite, some a⟩ ∧ a < 0x50) := by
  unfold State.memWrite at h
  split at h
  · rename_i hr; cases h; exact storeFault_cases hr
  · cases h

theorem State.length_firstRegs (s : State) (n : Nat) : (s.firstRegs n).length = n := by simp [State.firstRegs]

/-! ### The stack -/

/-- `push` answers, or overflows at 16. -/
theorem State.push_cases (s : State) (a : Word) :
    (∃ h : s.sp.val < 16, s.push a = .ok { s with stack := s.stack.set s.sp.val a, sp := ⟨s.sp.val + 1, by omega⟩ }) ∨
    (s.sp.val = 16 ∧ s.push a = .error ⟨.stackOverflow, none⟩) := by
  by_cases h : s.sp.val < 16
  · exact .inl ⟨h, by simp [State.push, h]⟩
  · exact .inr ⟨by have := s.sp.isLt; omega, by simp [State.push, h]⟩

/-- `pop` answers, or underflows at 0. -/
theorem State.pop_cases (s : State) :
    (∃ h : 0 < s.sp.val, s.pop = .ok (s.stack[s.sp.val - 1], { s with sp := ⟨s.sp.val - 1, by omega⟩ })) ∨
    (s.sp.val = 0 ∧ s.pop = .error ⟨.stackUnderflow, none⟩) := by
  by_cases h : 0 < s.sp.val
  · exact .inl ⟨h, by simp [State.pop, h]⟩
  · exact .inr ⟨by omega, by simp [State.pop, h]⟩

/-! ### The key index -/

theorem keyIndex_ok {b : Byte} {k : Nibble} (h : b.toNat = k.toNat) : keyIndex b = .ok k := by
  have hk : k.toNat < 16 := k.isLt
  have : ¬ 0xF < b.toNat := by omega
  simp only [keyIndex, this, if_false]
  congr 1
  apply BitVec.eq_of_toNat_eq
  simpa [h] using hk

theorem keyIndex_error {b : Byte} (h : 0xF < b.toNat) : keyIndex b = .error ⟨.keyIndexOutOfRange, none⟩ := if_pos h

/-- Every register value names a slot or none. -/
theorem keyIndex_cases (b : Byte) :
    (∃ k : Nibble, b.toNat = k.toNat ∧ keyIndex b = .ok k) ∨
    (0xF < b.toNat ∧ keyIndex b = .error ⟨.keyIndexOutOfRange, none⟩) := by
  by_cases h : 0xF < b.toNat
  · exact .inr ⟨h, keyIndex_error h⟩
  · have e : b.toNat = (BitVec.ofNat 4 b.toNat).toNat := by simp; omega
    exact .inl ⟨_, e, keyIndex_ok e⟩

/-! ### Result and flag -/

/-- 8xy4's order: VF holds the flag, whatever x is (R113). -/
theorem State.getV_setResultThenFlag (s : State) (x q : Nibble) (r : Byte) (f : Bool) :
    (s.setResultThenFlag x r f).getV q = if q = 0xF#4 then flagByte f else if q = x then r else s.getV q := by
  simp [State.setResultThenFlag, State.getV_setV, regVF]

/-- The other four: Vx holds the result, whatever x is (R113). -/
theorem State.getV_setFlagThenResult (s : State) (x q : Nibble) (r : Byte) (f : Bool) :
    (s.setFlagThenResult x r f).getV q = if q = x then r else if q = 0xF#4 then flagByte f else s.getV q := by
  simp [State.setFlagThenResult, State.getV_setV, regVF]

/-- Both change the register file alone. -/
theorem State.setResultThenFlag_eq (s : State) (x : Nibble) (r : Byte) (f : Bool) :
    s.setResultThenFlag x r f = { s with v := (s.setResultThenFlag x r f).v } := rfl

theorem State.setFlagThenResult_eq (s : State) (x : Nibble) (r : Byte) (f : Bool) :
    s.setFlagThenResult x r f = { s with v := (s.setFlagThenResult x r f).v } := rfl

/-! ### The end of an execute stage -/

@[simp] theorem finish_true (s : State) : finish true s = .next s := rfl
@[simp] theorem finish_false (s : State) : finish false s = .next (s.setPc (s.pc + 2#16)) := rfl
@[simp] theorem skipIf_eq (c : Bool) (s : State) : skipIf c s = .next (s.setPc (s.skipTarget c)) := rfl

@[simp] theorem orRaise_ok {α : Type} (s : State) (i : Instr) (a : α) (k : α → Result) :
    orRaise s i (.ok a) k = k a := rfl
@[simp] theorem orRaise_error {α : Type} (s : State) (i : Instr) (f : Fatal) (k : α → Result) :
    orRaise s i (.error f) k = .next (s.raiseFatal f (some (encode i))) := rfl

/-- All that `orRaise` can do: go on, or take the error at `s`. -/
theorem orRaise_cases {α : Type} {s t : State} {i : Instr} {r : Except Fatal α} {k : α → Result}
    (h : orRaise s i r k = .next t) :
    (∃ a, r = .ok a ∧ k a = .next t) ∨ (∃ f, r = .error f ∧ t = s.raiseFatal f (some (encode i))) := by
  cases r with
  | ok a => exact .inl ⟨a, rfl, h⟩
  | error f => exact .inr ⟨f, rfl, by cases h; rfl⟩

/-! ### Word arithmetic -/

theorem toNat_add_small (w : Word) (n : Nat) (h : n < 65536) : (w + BitVec.ofNat 16 n).toNat = (w.toNat + n) % 65536 := by
  simp [BitVec.toNat_add, Nat.mod_eq_of_lt h]

@[simp] theorem toNat_addrOperand (n : Addr12) : (addrOperand n).toNat = n.toNat := by
  have := n.isLt
  simp [addrOperand]; omega

@[simp] theorem toNat_zext16 (b : Byte) : (zext16 b).toNat = b.toNat := by
  have := b.isLt
  simp [zext16]; omega

@[simp] theorem toNat_zext8 (k : Nibble) : (zext8 k).toNat = k.toNat := by
  have := k.isLt
  simp [zext8]; omega

theorem State.toNat_skipTarget (s : State) (c : Bool) :
    (s.skipTarget c).toNat = (s.pc.toNat + if c = true then 4 else 2) % 65536 := by
  cases c <;> simp [State.skipTarget, BitVec.toNat_add]

theorem State.toNat_jumpTarget (s : State) (n : Addr12) :
    (s.jumpTarget n).toNat = n.toNat + (s.getV 0x0#4).toNat := by
  have := n.isLt
  have := (s.getV 0x0#4).isLt
  simp [State.jumpTarget, BitVec.toNat_add]; omega

theorem toNat_glyphAddr (b : Byte) : (glyphAddr b).toNat = 5 * b.toNat := by
  have := b.isLt
  simp [glyphAddr, BitVec.toNat_mul]; omega

/-! ### Timers -/

/-- A timer's tick is subtraction clamped at 0 (R152). -/
theorem toNat_tickTimer (b : Byte) : (tickTimer b).toNat = b.toNat - 1 := by
  have := b.isLt
  unfold tickTimer
  split
  · simp [BitVec.toNat_sub]; omega
  · omega

end Sys2Proof.Machine
end

