-- ==== Sys2Proof/Laws/Display.lean ====
section
/-! SUPPORT. Laws/Display.lean: what a blit of distinct cells does, said once: each cell of the framebuffer, the collision
flag, the notifications; and that the cells of a sprite are distinct (R140). -/

namespace Sys2Proof.Machine

/-- The framebuffer cell a sprite cell falls on. -/
def SpriteCell.place (c : SpriteCell) : Fin 64 × Fin 32 := (c.x, c.y)

/-- A sprite cell with bit 1 among `cells` falls on (x, y). -/
def drawsOn (cells : List SpriteCell) (x : Fin 64) (y : Fin 32) : Prop := ∃ c ∈ cells, c.x = x ∧ c.y = y ∧ c.bit = true

/-! ### One cell -/

theorem blitCell_cell (m : NotifyMode) (b : Blit) (c : SpriteCell) (x : Fin 64) (y : Fin 32) :
    Framebuffer.cell (blitCell m b c).fb x y =
      if x = c.x ∧ y = c.y then Framebuffer.cell b.fb c.x c.y ^^ c.bit else Framebuffer.cell b.fb x y :=
  Framebuffer.cell_setCell b.fb c.x x c.y y _

/-- A cell none of the list falls on is left alone. -/
theorem foldl_blit_cell_other (m : NotifyMode) (cells : List SpriteCell) : ∀ (b : Blit) (x : Fin 64) (y : Fin 32),
    (x, y) ∉ cells.map SpriteCell.place → Framebuffer.cell (cells.foldl (blitCell m) b).fb x y = Framebuffer.cell b.fb x y := by
  induction cells with
  | nil => intro b x y _; rfl
  | cons c cells ih =>
    intro b x y h
    simp only [List.map_cons, List.mem_cons, not_or] at h
    rw [List.foldl_cons, ih _ x y h.2, blitCell_cell, if_neg]
    rintro ⟨rfl, rfl⟩
    exact h.1 rfl

/-! ### A list of distinct cells -/

/-- The framebuffer after the blit: a cell is turned over exactly when a 1 is drawn on it. -/
theorem foldl_blit_cell (m : NotifyMode) (cells : List SpriteCell) : ∀ b : Blit, (cells.map SpriteCell.place).Nodup →
    ∀ x y, (drawsOn cells x y → Framebuffer.cell (cells.foldl (blitCell m) b).fb x y = !Framebuffer.cell b.fb x y) ∧
      (¬ drawsOn cells x y → Framebuffer.cell (cells.foldl (blitCell m) b).fb x y = Framebuffer.cell b.fb x y) := by
  induction cells with
  | nil => intro b _ x y; simp [drawsOn]
  | cons c cells ih =>
    intro b hn x y
    obtain ⟨hc, hn⟩ := List.nodup_cons.1 hn
    rw [List.foldl_cons]
    by_cases hxy : x = c.x ∧ y = c.y
    · obtain ⟨rfl, rfl⟩ := hxy
      rw [foldl_blit_cell_other m cells _ _ _ hc, blitCell_cell, if_pos ⟨rfl, rfl⟩]
      have hd : drawsOn (c :: cells) c.x c.y ↔ c.bit = true := by
        constructor
        · rintro ⟨d, hd, h1, h2, h3⟩
          rcases List.mem_cons.1 hd with rfl | hd
          · exact h3
          · exact absurd (List.mem_map.2 ⟨d, hd, by simp [SpriteCell.place, h1, h2]⟩) hc
        · intro h; exact ⟨c, List.mem_cons_self, rfl, rfl, h⟩
      rw [hd]
      cases c.bit <;> simp
    · have hd : drawsOn (c :: cells) x y ↔ drawsOn cells x y := by
        constructor
        · rintro ⟨d, hd, h1, h2, h3⟩
          rcases List.mem_cons.1 hd with rfl | hd
          · exact absurd ⟨h1.symm, h2.symm⟩ hxy
          · exact ⟨d, hd, h1, h2, h3⟩
        · rintro ⟨d, hd, h⟩; exact ⟨d, List.mem_cons_of_mem _ hd, h⟩
      have := ih (blitCell m b c) hn x y
      rw [blitCell_cell, if_neg hxy] at this
      rwa [hd]

/-- The collision flag after the blit: it was set, or some cell drawn on was on before the blit. -/
theorem foldl_blit_hit (m : NotifyMode) (cells : List SpriteCell) : ∀ b : Blit, (cells.map SpriteCell.place).Nodup →
    ((cells.foldl (blitCell m) b).hit = true ↔
      b.hit = true ∨ ∃ c ∈ cells, c.bit = true ∧ Framebuffer.cell b.fb c.x c.y = true) := by
  induction cells with
  | nil => intro b _; simp
  | cons c cells ih =>
    intro b hn
    obtain ⟨hc, hn⟩ := List.nodup_cons.1 hn
    rw [List.foldl_cons, ih _ hn]
    have hsame : ∀ d ∈ cells, Framebuffer.cell (blitCell m b c).fb d.x d.y = Framebuffer.cell b.fb d.x d.y := by
      intro d hd
      rw [blitCell_cell, if_neg]
      rintro ⟨h1, h2⟩
      exact hc (List.mem_map.2 ⟨d, hd, by simp [SpriteCell.place, h1, h2]⟩)
    have hhit : (blitCell m b c).hit = true ↔ b.hit = true ∨ (c.bit = true ∧ Framebuffer.cell b.fb c.x c.y = true) := by
      simp only [blitCell, collides, Bool.or_eq_true, Bool.and_eq_true]
      tauto
    rw [hhit]
    simp only [List.mem_cons, exists_eq_or_imp, or_assoc]
    constructor
    · rintro (h | h | ⟨d, hd, h1, h2⟩)
      · exact .inl h
      · exact .inr (.inl h)
      · exact .inr (.inr ⟨d, hd, h1, by rwa [← hsame d hd]⟩)
    · rintro (h | h | ⟨d, hd, h1, h2⟩)
      · exact .inl h
      · exact .inr (.inl h)
      · exact .inr (.inr ⟨d, hd, h1, by rwa [hsame d hd]⟩)

/-- The notifications of the blit, from the framebuffer it leaves: which cells, by the mode, and each with its new state. -/
theorem foldl_blit_notes (m : NotifyMode) (cells : List SpriteCell) : ∀ b : Blit, (cells.map SpriteCell.place).Nodup →
    (cells.foldl (blitCell m) b).notes = b.notes ++
      (cells.filter fun c => m == .touched || c.bit).map fun c =>
        .setPixel c.x c.y (Framebuffer.cell (cells.foldl (blitCell m) b).fb c.x c.y) := by
  induction cells with
  | nil => intro b _; simp
  | cons c cells ih =>
    intro b hn
    obtain ⟨hc, hn⟩ := List.nodup_cons.1 hn
    rw [List.foldl_cons, ih _ hn]
    have hnew : Framebuffer.cell (cells.foldl (blitCell m) (blitCell m b c)).fb c.x c.y =
        (Framebuffer.cell b.fb c.x c.y ^^ c.bit) := by
      rw [foldl_blit_cell_other m cells _ _ _ hc, blitCell_cell, if_pos ⟨rfl, rfl⟩]
    have hnotes : (blitCell m b c).notes = b.notes ++
        (if m == .touched || c.bit then [.setPixel c.x c.y (Framebuffer.cell b.fb c.x c.y ^^ c.bit)] else []) := by
      cases m <;> cases hb : c.bit <;> cases ho : Framebuffer.cell b.fb c.x c.y <;> simp [blitCell, notifies, hb, ho]
    rw [hnotes, List.filter_cons]
    split
    · simp [hnew]
    · simp

/-! ### The cells of a sprite -/

theorem mem_spriteCells (ox oy : Byte) (rows : List Byte) : ∀ (r : Nat) (d : SpriteCell), d ∈ spriteCells ox oy r rows ↔
    ∃ (k : Nat) (h : k < rows.length) (c : Nat), c < 8 ∧
      d = ⟨pixelX ox c, pixelY oy (r + k), spriteBit rows[k] c⟩ := by
  induction rows with
  | nil => intro r d; simp [spriteCells]
  | cons row rows ih =>
    intro r d
    rw [spriteCells, List.mem_append, ih, rowCells]
    constructor
    · rintro (h | ⟨k, hk, c, hc, rfl⟩)
      · obtain ⟨c, hc, rfl⟩ := List.mem_map.1 h
        exact ⟨0, by simp, c, List.mem_range.1 hc, rfl⟩
      · exact ⟨k + 1, by simpa using hk, c, hc, by simp [Nat.add_assoc, Nat.add_comm 1 k]⟩
    · rintro ⟨k, hk, c, hc, rfl⟩
      cases k with
      | zero => exact .inl (List.mem_map.2 ⟨c, List.mem_range.2 hc, rfl⟩)
      | succ k => exact .inr ⟨k, by simpa using hk, c, hc, by simp [Nat.add_assoc, Nat.add_comm 1 k]⟩

/-- The eight columns of a row are distinct, since 8 < 64. -/
theorem pixelX_inj {ox : Byte} {c d : Nat} (hc : c < 8) (hd : d < 8) (h : pixelX ox c = pixelX ox d) : c = d := by
  have := congrArg Fin.val h
  simp only [pixelX] at this
  omega

/-- At most 32 rows are distinct. -/
theorem pixelY_inj {oy : Byte} {r k : Nat} (h : pixelY oy r = pixelY oy k) (hlt : r < k + 32) (hgt : k < r + 32) : r = k := by
  have := congrArg Fin.val h
  simp only [pixelY] at this
  omega

/-- The cells of a sprite of at most 32 rows are pairwise distinct (R140). -/
theorem spriteCells_nodup (ox oy : Byte) (rows : List Byte) : ∀ r : Nat, rows.length ≤ 32 →
    ((spriteCells ox oy r rows).map SpriteCell.place).Nodup := by
  induction rows with
  | nil => intro r _; simp [spriteCells]
  | cons row rows ih =>
    intro r hl
    simp only [List.length_cons] at hl
    rw [spriteCells, List.map_append, List.nodup_append]
    refine ⟨?_, ih (r + 1) (by omega), ?_⟩
    · rw [rowCells, List.map_map]
      refine (List.nodup_range).map_on ?_
      intro c hc d hd h
      simp only [Function.comp, SpriteCell.place, Prod.mk.injEq] at h
      exact pixelX_inj (List.mem_range.1 hc) (List.mem_range.1 hd) h.1
    · intro p hp q hq hpq
      subst hpq
      obtain ⟨d, hd, rfl⟩ := List.mem_map.1 hp
      obtain ⟨e, he, hde⟩ := List.mem_map.1 hq
      obtain ⟨c, hc, rfl⟩ := List.mem_map.1 hd
      obtain ⟨k, hk, c', hc', rfl⟩ := (mem_spriteCells ox oy rows (r + 1) e).1 he
      simp only [SpriteCell.place, Prod.mk.injEq] at hde
      have := pixelY_inj hde.2 (by omega) (by omega)
      omega

/-! ### Flags -/

@[simp] theorem flagByte_eq_one (b : Bool) : flagByte b = 1#8 ↔ b = true := by cases b <;> simp [flagByte]
@[simp] theorem flagByte_eq_zero (b : Bool) : flagByte b = 0#8 ↔ b = false := by cases b <;> simp [flagByte]

end Sys2Proof.Machine
end

