-- ==== Sys2Proof/Laws/PerInstr.lean ====
section
/-! SUPPORT. Laws/PerInstr.lean: the family TableRow, one lemma per constructor of Instr: the word of an instruction belongs to
its own row of spec/opcode_table.json (R71). -/

namespace Sys2Proof.Laws.TableRow

/-- The opcode table has a row with the instruction's mnemonic, and it matches the instruction's word. -/
def Statement (i : Instr) : Prop := ∃ row ∈ opcodeTable, row.mnemonic = mnemonicOf i ∧ rowMatches row (encode i) = true

theorem op00E0 : Statement .op00E0 :=
  ⟨⟨"00E0", 0x00E0#16, 0xFFFF#16⟩, by decide, rfl, by decide⟩

theorem op00EE : Statement .op00EE :=
  ⟨⟨"00EE", 0x00EE#16, 0xFFFF#16⟩, by decide, rfl, by decide⟩

theorem op1nnn (nnn : Addr12) : Statement (.op1nnn nnn) :=
  ⟨⟨"1nnn", 0x1000#16, 0xF000#16⟩, by decide, rfl, by simp only [rowMatches, encode, wordOfNnn_eq, wordOfXyn_and_F000]; decide⟩

theorem op2nnn (nnn : Addr12) : Statement (.op2nnn nnn) :=
  ⟨⟨"2nnn", 0x2000#16, 0xF000#16⟩, by decide, rfl, by simp only [rowMatches, encode, wordOfNnn_eq, wordOfXyn_and_F000]; decide⟩

theorem op3xkk (x : Nibble) (kk : Byte) : Statement (.op3xkk x kk) :=
  ⟨⟨"3xkk", 0x3000#16, 0xF000#16⟩, by decide, rfl, by simp only [rowMatches, encode, wordOfXkk_eq, wordOfXyn_and_F000]; decide⟩

theorem op4xkk (x : Nibble) (kk : Byte) : Statement (.op4xkk x kk) :=
  ⟨⟨"4xkk", 0x4000#16, 0xF000#16⟩, by decide, rfl, by simp only [rowMatches, encode, wordOfXkk_eq, wordOfXyn_and_F000]; decide⟩

theorem op5xy0 (x : Nibble) (y : Nibble) : Statement (.op5xy0 x y) :=
  ⟨⟨"5xy0", 0x5000#16, 0xF00F#16⟩, by decide, rfl, by simp only [rowMatches, encode, wordOfXyn_and_F00F]; decide⟩

theorem op6xkk (x : Nibble) (kk : Byte) : Statement (.op6xkk x kk) :=
  ⟨⟨"6xkk", 0x6000#16, 0xF000#16⟩, by decide, rfl, by simp only [rowMatches, encode, wordOfXkk_eq, wordOfXyn_and_F000]; decide⟩

theorem op7xkk (x : Nibble) (kk : Byte) : Statement (.op7xkk x kk) :=
  ⟨⟨"7xkk", 0x7000#16, 0xF000#16⟩, by decide, rfl, by simp only [rowMatches, encode, wordOfXkk_eq, wordOfXyn_and_F000]; decide⟩

theorem op8xy0 (x : Nibble) (y : Nibble) : Statement (.op8xy0 x y) :=
  ⟨⟨"8xy0", 0x8000#16, 0xF00F#16⟩, by decide, rfl, by simp only [rowMatches, encode, wordOfXyn_and_F00F]; decide⟩

theorem op8xy1 (x : Nibble) (y : Nibble) : Statement (.op8xy1 x y) :=
  ⟨⟨"8xy1", 0x8001#16, 0xF00F#16⟩, by decide, rfl, by simp only [rowMatches, encode, wordOfXyn_and_F00F]; decide⟩

theorem op8xy2 (x : Nibble) (y : Nibble) : Statement (.op8xy2 x y) :=
  ⟨⟨"8xy2", 0x8002#16, 0xF00F#16⟩, by decide, rfl, by simp only [rowMatches, encode, wordOfXyn_and_F00F]; decide⟩

theorem op8xy3 (x : Nibble) (y : Nibble) : Statement (.op8xy3 x y) :=
  ⟨⟨"8xy3", 0x8003#16, 0xF00F#16⟩, by decide, rfl, by simp only [rowMatches, encode, wordOfXyn_and_F00F]; decide⟩

theorem op8xy4 (x : Nibble) (y : Nibble) : Statement (.op8xy4 x y) :=
  ⟨⟨"8xy4", 0x8004#16, 0xF00F#16⟩, by decide, rfl, by simp only [rowMatches, encode, wordOfXyn_and_F00F]; decide⟩

theorem op8xy5 (x : Nibble) (y : Nibble) : Statement (.op8xy5 x y) :=
  ⟨⟨"8xy5", 0x8005#16, 0xF00F#16⟩, by decide, rfl, by simp only [rowMatches, encode, wordOfXyn_and_F00F]; decide⟩

theorem op8xy6 (x : Nibble) (y : Nibble) : Statement (.op8xy6 x y) :=
  ⟨⟨"8xy6", 0x8006#16, 0xF00F#16⟩, by decide, rfl, by simp only [rowMatches, encode, wordOfXyn_and_F00F]; decide⟩

theorem op8xy7 (x : Nibble) (y : Nibble) : Statement (.op8xy7 x y) :=
  ⟨⟨"8xy7", 0x8007#16, 0xF00F#16⟩, by decide, rfl, by simp only [rowMatches, encode, wordOfXyn_and_F00F]; decide⟩

theorem op8xyE (x : Nibble) (y : Nibble) : Statement (.op8xyE x y) :=
  ⟨⟨"8xyE", 0x800E#16, 0xF00F#16⟩, by decide, rfl, by simp only [rowMatches, encode, wordOfXyn_and_F00F]; decide⟩

theorem op9xy0 (x : Nibble) (y : Nibble) : Statement (.op9xy0 x y) :=
  ⟨⟨"9xy0", 0x9000#16, 0xF00F#16⟩, by decide, rfl, by simp only [rowMatches, encode, wordOfXyn_and_F00F]; decide⟩

theorem opAnnn (nnn : Addr12) : Statement (.opAnnn nnn) :=
  ⟨⟨"Annn", 0xA000#16, 0xF000#16⟩, by decide, rfl, by simp only [rowMatches, encode, wordOfNnn_eq, wordOfXyn_and_F000]; decide⟩

theorem opBnnn (nnn : Addr12) : Statement (.opBnnn nnn) :=
  ⟨⟨"Bnnn", 0xB000#16, 0xF000#16⟩, by decide, rfl, by simp only [rowMatches, encode, wordOfNnn_eq, wordOfXyn_and_F000]; decide⟩

theorem opCxkk (x : Nibble) (kk : Byte) : Statement (.opCxkk x kk) :=
  ⟨⟨"Cxkk", 0xC000#16, 0xF000#16⟩, by decide, rfl, by simp only [rowMatches, encode, wordOfXkk_eq, wordOfXyn_and_F000]; decide⟩

theorem opDxyn (x : Nibble) (y : Nibble) (n : Nibble) : Statement (.opDxyn x y n) :=
  ⟨⟨"Dxyn", 0xD000#16, 0xF000#16⟩, by decide, rfl, by simp only [rowMatches, encode, wordOfXyn_and_F000]; decide⟩

theorem opEx9E (x : Nibble) : Statement (.opEx9E x) :=
  ⟨⟨"Ex9E", 0xE09E#16, 0xF0FF#16⟩, by decide, rfl, by simp only [rowMatches, encode, wordOfXkk_eq, wordOfXyn_and_F0FF]; decide⟩

theorem opExA1 (x : Nibble) : Statement (.opExA1 x) :=
  ⟨⟨"ExA1", 0xE0A1#16, 0xF0FF#16⟩, by decide, rfl, by simp only [rowMatches, encode, wordOfXkk_eq, wordOfXyn_and_F0FF]; decide⟩

theorem opFx07 (x : Nibble) : Statement (.opFx07 x) :=
  ⟨⟨"Fx07", 0xF007#16, 0xF0FF#16⟩, by decide, rfl, by simp only [rowMatches, encode, wordOfXkk_eq, wordOfXyn_and_F0FF]; decide⟩

theorem opFx0A (x : Nibble) : Statement (.opFx0A x) :=
  ⟨⟨"Fx0A", 0xF00A#16, 0xF0FF#16⟩, by decide, rfl, by simp only [rowMatches, encode, wordOfXkk_eq, wordOfXyn_and_F0FF]; decide⟩

theorem opFx15 (x : Nibble) : Statement (.opFx15 x) :=
  ⟨⟨"Fx15", 0xF015#16, 0xF0FF#16⟩, by decide, rfl, by simp only [rowMatches, encode, wordOfXkk_eq, wordOfXyn_and_F0FF]; decide⟩

theorem opFx18 (x : Nibble) : Statement (.opFx18 x) :=
  ⟨⟨"Fx18", 0xF018#16, 0xF0FF#16⟩, by decide, rfl, by simp only [rowMatches, encode, wordOfXkk_eq, wordOfXyn_and_F0FF]; decide⟩

theorem opFx1E (x : Nibble) : Statement (.opFx1E x) :=
  ⟨⟨"Fx1E", 0xF01E#16, 0xF0FF#16⟩, by decide, rfl, by simp only [rowMatches, encode, wordOfXkk_eq, wordOfXyn_and_F0FF]; decide⟩

theorem opFx29 (x : Nibble) : Statement (.opFx29 x) :=
  ⟨⟨"Fx29", 0xF029#16, 0xF0FF#16⟩, by decide, rfl, by simp only [rowMatches, encode, wordOfXkk_eq, wordOfXyn_and_F0FF]; decide⟩

theorem opFx33 (x : Nibble) : Statement (.opFx33 x) :=
  ⟨⟨"Fx33", 0xF033#16, 0xF0FF#16⟩, by decide, rfl, by simp only [rowMatches, encode, wordOfXkk_eq, wordOfXyn_and_F0FF]; decide⟩

theorem opFx55 (x : Nibble) : Statement (.opFx55 x) :=
  ⟨⟨"Fx55", 0xF055#16, 0xF0FF#16⟩, by decide, rfl, by simp only [rowMatches, encode, wordOfXkk_eq, wordOfXyn_and_F0FF]; decide⟩

theorem opFx65 (x : Nibble) : Statement (.opFx65 x) :=
  ⟨⟨"Fx65", 0xF065#16, 0xF0FF#16⟩, by decide, rfl, by simp only [rowMatches, encode, wordOfXkk_eq, wordOfXyn_and_F0FF]; decide⟩

end Sys2Proof.Laws.TableRow
end

