-- ==== Sys2Proof/Laws/Step.lean ====
section
/-! SUPPORT. Laws/Step.lean: what a step can do, by STATUS and, in RUN, by fetch and decode; what the end of a cycle does; and the
frame predicate's own laws. -/

namespace Sys2Proof.Machine

/-! ### Frames -/

theorem changesOnly_mono {p q : List Part} {s t : State} (h : changesOnly p s t) (hpq : ∀ x ∈ p, x ∈ q) : changesOnly q s t :=
  fun x hx => h x fun hxp => hx (hpq x hxp)

theorem Part.same_refl (p : Part) (s : State) : p.same s s := by cases p <;> simp [Part.same]

theorem Part.same_trans {p : Part} {s t u : State} (h : p.same s t) (h' : p.same t u) : p.same s u := by
  cases p <;> simp_all [Part.same]

theorem changesOnly_trans {p : List Part} {s t u : State} (h : changesOnly p s t) (h' : changesOnly p t u) : changesOnly p s u :=
  fun x hx => Part.same_trans (h x hx) (h' x hx)

/-! ### Fetch -/

/-- Fetch in range gives the big-endian word at PC (R91). -/
theorem State.fetch_ok {s : State} (h : s.pc.toNat + 1 ≤ 0xFFF) : s.fetch = .ok s.nextWord := by
  have : rangeFault s.pc.toNat 2 = none := (rangeFault_none_iff _ _).2 (.inr (by omega))
  simp [State.fetch, this, State.nextWord, beWord]

theorem State.fetch_error {s : State} (h : 0xFFF < s.pc.toNat + 1) :
    s.fetch = .error ⟨.addressOutOfRange, some (max s.pc.toNat 0x1000)⟩ := by
  simp [State.fetch, rangeFault_some (n := 2) (by omega) (show 0xFFF < s.pc.toNat + 2 - 1 by omega)]

@[simp] theorem State.nextWord_clearEvents (s : State) : s.clearEvents.nextWord = s.nextWord := rfl

/-! ### A step, by STATUS -/

theorem step_of_run {s : State} (h : s.status = .run) : step s = s.runCycle := by simp [step, h]
theorem step_of_wait {s : State} {x : Nibble} {cap : Option Nibble} (h : s.status = .wait x cap) :
    step s = .next (s.waitCycle x cap) := by simp [step, h]
theorem step_of_fault {s : State} {r : FaultRecord} (h : s.status = .fault r) : step s = .next s.clearEvents := by
  simp [step, h, State.idleCycle]
theorem step_of_halt {s : State} (h : s.status = .halt) : step s = .next s.clearEvents := by simp [step, h, State.idleCycle]

/-! ### A cycle in RUN -/

theorem runCycle_fetchFault {s : State} (h : 0xFFF < s.pc.toNat + 1) :
    s.runCycle = .next (s.clearEvents.raiseFatal ⟨.addressOutOfRange, some (max s.pc.toNat 0x1000)⟩ none) := by
  have : s.clearEvents.fetch = .error ⟨.addressOutOfRange, some (max s.pc.toNat 0x1000)⟩ := State.fetch_error (s := s.clearEvents) h
  simp [State.runCycle, this, State.fetchFault]

theorem runCycle_unknown {s : State} (h : s.pc.toNat + 1 ≤ 0xFFF) {e : Reject} (hd : decode s.nextWord = .error e) :
    s.runCycle = .next (s.clearEvents.raiseFatal ⟨.unknownOpcode, none⟩ (some s.nextWord)) := by
  have : s.clearEvents.fetch = .ok s.nextWord := State.fetch_ok (s := s.clearEvents) h
  simp [State.runCycle, this, hd, State.unknownOpcodeFault]

theorem runCycle_exec {s : State} (h : s.pc.toNat + 1 ≤ 0xFFF) {i : Instr} (hd : decode s.nextWord = .ok i) :
    s.runCycle = endCycleResult s.st (exec i s.clearEvents) := by
  have : s.clearEvents.fetch = .ok s.nextWord := State.fetch_ok (s := s.clearEvents) h
  simp [State.runCycle, this, hd]

/-- All that a cycle in RUN can do when it answers a next state (R88, R91, R92). -/
theorem runCycle_cases {s t : State} (h : s.runCycle = .next t) :
    (0xFFF < s.pc.toNat + 1 ∧
      t = s.clearEvents.raiseFatal ⟨.addressOutOfRange, some (max s.pc.toNat 0x1000)⟩ none) ∨
    (s.pc.toNat + 1 ≤ 0xFFF ∧ (∃ e, decode s.nextWord = .error e) ∧
      t = s.clearEvents.raiseFatal ⟨.unknownOpcode, none⟩ (some s.nextWord)) ∨
    (s.pc.toNat + 1 ≤ 0xFFF ∧ ∃ i u, decode s.nextWord = .ok i ∧ exec i s.clearEvents = .next u ∧ t = u.endCycle s.st) := by
  by_cases hp : s.pc.toNat + 1 ≤ 0xFFF
  · cases hd : decode s.nextWord with
    | error e => rw [runCycle_unknown hp hd] at h; cases h; exact .inr (.inl ⟨hp, ⟨e, rfl⟩, rfl⟩)
    | ok i =>
      rw [runCycle_exec hp hd] at h
      cases he : exec i s.clearEvents with
      | next u => rw [he] at h; cases h; exact .inr (.inr ⟨hp, i, u, rfl, he, rfl⟩)
      | fault f => cases f
      | refused r => rw [he] at h; cases h
  · rw [runCycle_fetchFault (by omega)] at h; cases h; exact .inl ⟨by omega, rfl⟩

/-! ### The end of a cycle -/

theorem State.endCycle_of_run {t : State} (b : Byte) (h : t.status = .run) : t.endCycle b = t.cycleTick.toneEnd b := by
  simp [State.endCycle, h]

/-- A cycle that did not complete ends as its execute stage left it (R153). -/
theorem State.endCycle_of_not_run {t : State} (b : Byte) (h : t.status ≠ .run) : t.endCycle b = t := by
  unfold State.endCycle
  split <;> first | rfl | contradiction

/-- The tick of a cycle, by `TIMER_MODE` (R96). -/
theorem State.cycleTick_eq (s : State) :
    s.cycleTick = if s.config.timerMode = .perCycle then s.tick else s := by
  unfold State.cycleTick
  split <;> simp_all

/-- The end of a cycle changes the timers and the events alone. -/
theorem State.endCycle_eq (t : State) (b : Byte) :
    t.endCycle b = { t with dt := (t.endCycle b).dt, st := (t.endCycle b).st, events := (t.endCycle b).events } := by
  unfold State.endCycle
  split <;> try rfl
  unfold State.toneEnd State.cycleTick
  split <;> split <;> rfl

/-! ### Runs -/

@[simp] theorem Observation.cons_state (es : List Event) (o : Observation) : (o.cons es).state = o.state := rfl
@[simp] theorem Observation.cons_eventLists (es : List Event) (o : Observation) :
    (o.cons es).eventLists = es :: o.eventLists := rfl

@[simp] theorem runTransactions_nil (s : State) : runTransactions [] s = .next ⟨s, []⟩ := rfl

/-- A run goes on from the state its first transaction leaves, and observes that transaction's events first (R102). -/
theorem runTransactions_cons {x : Transaction} {xs : List Transaction} {s t : State} {o : Observation}
    (h : transact x s = .next t) (ho : runTransactions xs t = .next o) :
    runTransactions (x :: xs) s = .next (o.cons t.events) := by
  simp only [runTransactions, h, ho]

end Sys2Proof.Machine
end

