-- ==== Sys2Proof/Tests/Slice0.lean ====
section
/-! SUPPORT. Tests/Slice0.lean: the model's own tests: decoding of words written bit by bit from the encodings of
spec/30_encoding.md, the well-formedness smoke, vectors of spec/95_test_vectors.md (each named), and for every statement with
hypotheses the states and operands that meet them. -/

namespace Sys2Proof.Tests

open Sys2Proof Sys2Proof.Machine

/-! ## Helpers -/

/-- The reset state with a word at the place the next cycle fetches. -/
def at16 (w : Nat) : State := State.reset.withFetchWord 16 w

/-- The outcome is a next state that meets `p`. -/
def okIf (r : Result) (p : State → Bool) : Bool :=
  match r with
  | .next t => p t
  | .fault _ => false
  | .refused _ => false

/-- One step from `s` answers a state that meets `p`. -/
def after (s : State) (p : State → Bool) : Bool := okIf (step s) p

/-- The fault record of a state. -/
def faultOf (s : State) : Option FaultRecord :=
  match s.status with
  | .fault r => some r
  | .run | .wait _ _ | .halt => none

/-- The record a fault at 0x200 leaves. -/
def at200 (k : FatalKind) (w : Word) (a : Option Nat) : Option FaultRecord := some ⟨k, 0x200#16, some w, a⟩

/-- A state that has raised a fatal error. -/
def faulted : State := State.reset.setStatus (.fault ⟨.unknownOpcode, 0x200#16, some 0#16, none⟩)

/-! ## Decoding: a word of every row, written from its pattern (R71; R15 for the fields) -/

theorem test_decode_fixed_words :
    decode 0b0000000011100000#16 = .ok .op00E0 ∧ decode 0b0000000011101110#16 = .ok .op00EE := by decide

theorem test_decode_control :
    decode 0b0001001000110100#16 = .ok (.op1nnn 0x234#12) ∧ decode 0b0010001100000000#16 = .ok (.op2nnn 0x300#12) ∧
    decode 0b0011001100010010#16 = .ok (.op3xkk 3#4 0x12#8) ∧ decode 0b0100001100010011#16 = .ok (.op4xkk 3#4 0x13#8) ∧
    decode 0b0101000100100000#16 = .ok (.op5xy0 1#4 2#4) ∧ decode 0b1001000100100000#16 = .ok (.op9xy0 1#4 2#4) ∧
    decode 0b1011111100000001#16 = .ok (.opBnnn 0xF01#12) := by decide

theorem test_decode_alu :
    decode 0b0110101001000010#16 = .ok (.op6xkk 0xA#4 0x42#8) ∧ decode 0b0111111111111111#16 = .ok (.op7xkk 0xF#4 0xFF#8) ∧
    decode 0b1000010101110000#16 = .ok (.op8xy0 5#4 7#4) ∧ decode 0b1000010101110001#16 = .ok (.op8xy1 5#4 7#4) ∧
    decode 0b1000010101110010#16 = .ok (.op8xy2 5#4 7#4) ∧ decode 0b1000010101110011#16 = .ok (.op8xy3 5#4 7#4) ∧
    decode 0b1000010101110100#16 = .ok (.op8xy4 5#4 7#4) ∧ decode 0b1000010101110101#16 = .ok (.op8xy5 5#4 7#4) ∧
    decode 0b1000010101110110#16 = .ok (.op8xy6 5#4 7#4) ∧ decode 0b1000010101110111#16 = .ok (.op8xy7 5#4 7#4) ∧
    decode 0b1000010101111110#16 = .ok (.op8xyE 5#4 7#4) ∧ decode 0b1100001100001111#16 = .ok (.opCxkk 3#4 0x0F#8) := by decide

theorem test_decode_index_memory :
    decode 0b1010001011110000#16 = .ok (.opAnnn 0x2F0#12) ∧ decode 0b1111001000011110#16 = .ok (.opFx1E 2#4) ∧
    decode 0b1111101000101001#16 = .ok (.opFx29 0xA#4) ∧ decode 0b1111101000110011#16 = .ok (.opFx33 0xA#4) ∧
    decode 0b1111001001010101#16 = .ok (.opFx55 2#4) ∧ decode 0b1111001101100101#16 = .ok (.opFx65 3#4) := by decide

theorem test_decode_display_timers_input :
    decode 0b1101101111000101#16 = .ok (.opDxyn 0xB#4 0xC#4 5#4) ∧ decode 0b1101000000010000#16 = .ok (.opDxyn 0#4 1#4 0#4) ∧
    decode 0b1111001100000111#16 = .ok (.opFx07 3#4) ∧ decode 0b1111001100001010#16 = .ok (.opFx0A 3#4) ∧
    decode 0b1111010000010101#16 = .ok (.opFx15 4#4) ∧ decode 0b1111010000011000#16 = .ok (.opFx18 4#4) ∧
    decode 0b1110010110011110#16 = .ok (.opEx9E 5#4) ∧ decode 0b1110010110100001#16 = .ok (.opExA1 5#4) := by decide

/-- V-E1 to V-E7: words no pattern matches are rejected by name. -/
theorem test_decode_rejects :
    decode 0x0123#16 = .error (.unknownOpcode 0x0123#16) ∧
    decode 0x0000#16 = .error (.unknownOpcode 0x0000#16) ∧
    decode 0x5011#16 = .error (.unknownOpcode 0x5011#16) ∧
    decode 0x9121#16 = .error (.unknownOpcode 0x9121#16) ∧
    decode 0x8018#16 = .error (.unknownOpcode 0x8018#16) ∧
    decode 0x8019#16 = .error (.unknownOpcode 0x8019#16) ∧
    decode 0x801A#16 = .error (.unknownOpcode 0x801A#16) ∧
    decode 0x801B#16 = .error (.unknownOpcode 0x801B#16) ∧
    decode 0x801C#16 = .error (.unknownOpcode 0x801C#16) ∧
    decode 0x801D#16 = .error (.unknownOpcode 0x801D#16) ∧
    decode 0x801F#16 = .error (.unknownOpcode 0x801F#16) ∧
    decode 0xE09F#16 = .error (.unknownOpcode 0xE09F#16) ∧
    decode 0xF0FF#16 = .error (.unknownOpcode 0xF0FF#16) ∧
    decode 0xF000#16 = .error (.unknownOpcode 0xF000#16) ∧
    decode 0xF016#16 = .error (.unknownOpcode 0xF016#16) :=
  ⟨rfl, rfl, rfl, rfl, rfl, rfl, rfl, rfl, rfl, rfl, rfl, rfl, rfl, rfl, rfl⟩

/-! ## Well-formedness smoke -/

/-- V-R2: an image one byte too long is refused; V-R3 and V-R4: the longest and the empty image are not. -/
theorem test_ill_formed_program_refused : programWellFormed (List.replicate 3585 0#8) = false := by
  simp only [programWellFormed, List.length_replicate, maxProgramLen]; decide
theorem test_well_formed_programs : programWellFormed (List.replicate 3584 0#8) = true ∧ programWellFormed [] = true := by
  simp only [programWellFormed, List.length_replicate, maxProgramLen]; decide

/-- No term of `Instr` is ill-formed, n = 0 among them (R77). -/
theorem test_instr_well_formed : (Instr.opDxyn 0#4 1#4 0#4).wellFormed = true := rfl

/-! ## Control flow -/

/-- V-C1, V-C2. -/
theorem test_00EE : after (at16 0x00EE) (fun t => faultOf t == at200 .stackUnderflow 0x00EE#16 none && t.sp == 0) = true ∧
    after { at16 0x00EE with sp := 1, stack := (Vector.replicate 16 0#16).set 0 0x206#16 }
      (fun t => t.pc == 0x206#16 && t.sp == 0 && t.stack[0] == 0x206#16) = true := by decide

/-- V-C3. -/
theorem test_1nnn : after (at16 0x1234) (fun t => t.pc == 0x234#16) = true := by decide

/-- V-C5. -/
theorem test_2nnn : after (at16 0x2300) (fun t => t.stack[0] == 0x202#16 && t.sp == 1 && t.pc == 0x300#16) = true := by decide

/-- V-C6. -/
theorem test_2nnn_full : after { at16 0x2300 with sp := 16 }
    (fun t => faultOf t == at200 .stackOverflow 0x2300#16 none && t.sp == 16 && t.pc == 0x200#16) = true := by decide

/-- V-C8, V-C9. -/
theorem test_3xkk : after ((at16 0x3312).setV 3 0x12#8) (fun t => t.pc == 0x204#16) = true ∧
    after ((at16 0x3313).setV 3 0x12#8) (fun t => t.pc == 0x202#16) = true := by decide

/-- V-C10, V-C11. -/
theorem test_4xkk : after ((at16 0x4313).setV 3 0x12#8) (fun t => t.pc == 0x204#16) = true ∧
    after ((at16 0x4312).setV 3 0x12#8) (fun t => t.pc == 0x202#16) = true := by decide

/-- V-C12. -/
theorem test_5xy0 : after (((at16 0x5120).setV 1 4#8).setV 2 4#8) (fun t => t.pc == 0x204#16) = true := by decide

/-- V-C13, V-C14. -/
theorem test_9xy0 : after (((at16 0x9120).setV 1 4#8).setV 2 4#8) (fun t => t.pc == 0x202#16) = true ∧
    after (((at16 0x9120).setV 1 4#8).setV 2 5#8) (fun t => t.pc == 0x204#16) = true := by decide

/-- V-C20, V-C21. -/
theorem test_Bnnn : after ((at16 0xBF01).setV 0 0xFF#8) (fun t => t.pc == 0x1000#16) = true ∧
    after ((at16 0xB201).setV 0 0xFF#8) (fun t => t.pc == 0x300#16) = true := by decide

/-! ## Registers and arithmetic -/

/-- V-A1. -/
theorem test_6xkk : after (at16 0x6A42) (fun t => t.getV 0xA == 0x42#8 && t.pc == 0x202#16) = true := by decide

/-- V-A2, V-A3. -/
theorem test_7xkk : after ((at16 0x7005).setV 0 0xFE#8) (fun t => t.getV 0 == 3#8 && t.getV 0xF == 0#8) = true ∧
    after ((at16 0x7FFF).setV 0xF 2#8) (fun t => t.getV 0xF == 1#8) = true := by decide

/-- V-A4. -/
theorem test_8xy0 : after ((at16 0x8010).setV 1 0x33#8) (fun t => t.getV 0 == 0x33#8) = true := by decide

/-- V-A5. -/
theorem test_8xy1 : after ((((at16 0x8011).setV 0 0xF0#8).setV 1 0x0F#8).setV 0xF 1#8)
    (fun t => t.getV 0 == 0xFF#8 && t.getV 0xF == 1#8) = true := by decide

/-- V-A6. -/
theorem test_8xy2 : after (((at16 0x8012).setV 0 0xF0#8).setV 1 0x3C#8) (fun t => t.getV 0 == 0x30#8) = true := by decide

/-- V-A7. -/
theorem test_8xy3 : after (((at16 0x8013).setV 0 0xF0#8).setV 1 0x3C#8) (fun t => t.getV 0 == 0xCC#8) = true := by decide

/-- V-A10, V-A12. -/
theorem test_8xy4 : after (((at16 0x8014).setV 0 0xFF#8).setV 1 1#8) (fun t => t.getV 0 == 0#8 && t.getV 0xF == 1#8) = true ∧
    after (((at16 0x80F4).setV 0 0x10#8).setV 0xF 1#8) (fun t => t.getV 0 == 0x11#8 && t.getV 0xF == 0#8) = true := by decide

/-- V-A11: the carry is written last. -/
theorem test_8xy4_VF : after (((at16 0x8F14).setV 0xF 0x80#8).setV 1 0x80#8) (fun t => t.getV 0xF == 1#8) = true := by decide

/-- V-A14, V-A13. -/
theorem test_8xy5 : after ((((at16 0x8015).setV 0 5#8).setV 1 5#8).setV 0xF 9#8)
      (fun t => t.getV 0 == 0#8 && t.getV 0xF == 0#8) = true ∧
    after (((at16 0x8015).setV 0 0x0A#8).setV 1 3#8) (fun t => t.getV 0 == 7#8 && t.getV 0xF == 1#8) = true := by decide

/-- V-A16: the result is written last. -/
theorem test_8xy5_VF : after (((at16 0x8F15).setV 0xF 0x0A#8).setV 1 3#8) (fun t => t.getV 0xF == 7#8) = true := by decide

/-- V-A17, V-A18. -/
theorem test_8xy6 : after ((at16 0x8006).setV 0 5#8) (fun t => t.getV 0 == 2#8 && t.getV 0xF == 1#8) = true ∧
    after (((at16 0x8016).setV 0 4#8).setV 1 0xFF#8)
      (fun t => t.getV 0 == 2#8 && t.getV 0xF == 0#8 && t.getV 1 == 0xFF#8) = true := by decide

/-- V-A19. -/
theorem test_8xy6_VF : after ((at16 0x8F06).setV 0xF 5#8) (fun t => t.getV 0xF == 2#8) = true := by decide

/-- V-A20, V-A21. -/
theorem test_8xy7 : after (((at16 0x8017).setV 0 3#8).setV 1 0x0A#8) (fun t => t.getV 0 == 7#8 && t.getV 0xF == 1#8) = true ∧
    after (((at16 0x8017).setV 0 0x0A#8).setV 1 3#8) (fun t => t.getV 0 == 0xF9#8 && t.getV 0xF == 0#8) = true := by decide

/-- V-A22. -/
theorem test_8xyE : after ((at16 0x800E).setV 0 0x81#8) (fun t => t.getV 0 == 2#8 && t.getV 0xF == 1#8) = true := by decide

/-- V-A24. -/
theorem test_8xyE_VF : after ((at16 0x8F0E).setV 0xF 0xC1#8) (fun t => t.getV 0xF == 0x82#8) = true := by decide

/-- V-A27: any draw masked with 0 is 0. -/
theorem test_Cxkk_zero : ∃ t, exec (.opCxkk 3 0) State.reset = .next t ∧ t.getV 3 = 0#8 ∧ t.pc = 0x202#16 :=
  ⟨_, rfl, by simp [State.getV, State.setV, State.takeDraw], rfl⟩

/-- V-A25: a draw of 0xA7 masked with 0x0F is 7. -/
theorem test_Cxkk_mask (h : Config.randomByte 0 = 0xA7#8) : ∃ t, exec (.opCxkk 3 0x0F) State.reset = .next t ∧ t.getV 3 = 7#8 :=
  ⟨_, rfl, by simp [State.getV, State.setV, State.takeDraw, State.reset, State.resetWith, h]⟩

/-! ## Index register and memory -/

/-- V-M1. -/
theorem test_Annn : after (at16 0xA2F0) (fun t => t.i == 0x2F0#16) = true := by decide

/-- V-M3, V-M4. -/
theorem test_Fx1E : after (((at16 0xF01E).setI 0xFFF#16).setV 0 1#8) (fun t => t.i == 0x1000#16 && t.getV 0xF == 0#8) = true ∧
    after (((at16 0xF01E).setI 0xFFFF#16).setV 0 1#8) (fun t => t.i == 0#16) = true := by decide

/-- V-M5, V-M7. -/
theorem test_Fx29 : after ((at16 0xF029).setV 0 0x0A#8) (fun t => t.i == 0x32#16) = true ∧
    after ((at16 0xF029).setV 0 0xFF#8) (fun t => t.i == 0x4FB#16) = true := by decide

/-- W9. -/
theorem test_Fx33 : after (((at16 0xF033).setI 0x300#16).setV 0 157#8)
    (fun t => t.readBytes 0x300 4 == [1#8, 5#8, 7#8, 0#8] && t.i == 0x300#16) = true := by decide

/-- V-M11, V-M12, V-R8. -/
theorem test_Fx33_faults : after (((at16 0xF033).setI 0xFFE#16).setV 0 1#8)
      (fun t => faultOf t == at200 .addressOutOfRange 0xF033#16 (some 0x1000) && t.readByte 0xFFE == 0#8) = true ∧
    after (((at16 0xF033).setI 0x04E#16).setV 0 1#8)
      (fun t => faultOf t == at200 .fontWrite 0xF033#16 (some 0x04E)) = true := by decide

/-- V-M14: the bound is exclusive. -/
theorem test_Fx55 : after (((((at16 0xF255).setI 0x300#16).setV 0 1#8).setV 1 2#8).setV 2 3#8)
    (fun t => t.readBytes 0x300 3 == [1#8, 2#8, 0#8]) = true := by decide

/-- V-M15, V-M16. -/
theorem test_Fx55_font : after (at16 0xF055) (fun t => t.status == .run && t.pc == 0x202#16) = true ∧
    after (at16 0xF155) (fun t => faultOf t == at200 .fontWrite 0xF155#16 (some 0)) = true := by decide

/-- V-M20: glyph 0 of the default font. -/
theorem test_Fx65 : after (at16 0xF565) (fun t => t.firstRegs 6 == [0xF0#8, 0x90#8, 0x90#8, 0x90#8, 0xF0#8, 0#8]) = true := by
  decide

/-- V-M21, V-M22. -/
theorem test_Fx65_range : after ((at16 0xF165).setI 0xFFF#16) (fun t => t.status == .run) = true ∧
    after ((at16 0xF265).setI 0xFFF#16) (fun t => faultOf t == at200 .addressOutOfRange 0xF265#16 (some 0x1000)) = true := by
  decide

/-! ## Display -/

/-- V-D1. -/
theorem test_00E0 : after ((at16 0x00E0).setFb (Framebuffer.blank.setCell 1 2 true))
    (fun t => !Framebuffer.cell t.fb 1 2 && t.events == [.clear]) = true := by decide

/-- A sprite row 0xC0 at 0x300, I there. -/
def spriteAt (s : State) : State := (s.setI 0x300#16).writeBytes 0x300 [0xC0#8]

/-- V-D2, V-D3: drawing, and drawing again with two cells on. -/
theorem test_Dxyn : after (spriteAt (at16 0xD011)) (fun t => Framebuffer.cell t.fb 0 0 && Framebuffer.cell t.fb 1 0 &&
      t.getV 0xF == 0#8 && t.events == [.setPixel 0 0 true, .setPixel 1 0 true, .present]) = true ∧
    after ((spriteAt (at16 0xD011)).setFb ((Framebuffer.blank.setCell 0 0 true).setCell 1 0 true))
      (fun t => !Framebuffer.cell t.fb 0 0 && !Framebuffer.cell t.fb 1 0 && t.getV 0xF == 1#8 &&
        t.events == [.setPixel 0 0 false, .setPixel 1 0 false, .present]) = true := by decide

/-- V-D6: glyph 0 at (62, 30) wraps both ways. -/
theorem test_Dxyn_wrap : after (((at16 0xD015).setV 0 62#8).setV 1 30#8) (fun t => t.getV 0xF == 0#8 && t.events ==
    [.setPixel 62 30 true, .setPixel 63 30 true, .setPixel 0 30 true, .setPixel 1 30 true, .setPixel 62 31 true,
      .setPixel 1 31 true, .setPixel 62 0 true, .setPixel 1 0 true, .setPixel 62 1 true, .setPixel 1 1 true,
      .setPixel 62 2 true, .setPixel 63 2 true, .setPixel 0 2 true, .setPixel 1 2 true, .present]) = true := by decide

/-! ## Timers and input -/

/-- V-T1. -/
theorem test_Fx07 : after ((at16 0xF307).setDt 9#8) (fun t => t.getV 3 == 9#8 && t.dt == 8#8) = true := by decide

/-- V-T2, V-T3. -/
theorem test_Fx15 : after ((at16 0xF015).setV 0 5#8) (fun t => t.dt == 4#8) = true ∧
    after ((at16 0xF015).setDt 3#8) (fun t => t.dt == 0#8) = true := by decide

/-- V-T4, V-T5. -/
theorem test_Fx18 : after ((at16 0xF018).setV 0 4#8) (fun t => t.st == 3#8 && t.events == []) = true ∧
    after ((at16 0xF018).setSt 4#8) (fun t => t.st == 0#8 && t.events == [.toneEnd]) = true := by decide

/-- V-T9, V-T10. -/
theorem test_Ex9E : after (((at16 0xE59E).setV 5 7#8).setKey 7 true) (fun t => t.pc == 0x204#16) = true ∧
    after ((at16 0xE59E).setV 5 7#8) (fun t => t.pc == 0x202#16) = true := by decide

/-- V-T13. -/
theorem test_Ex9E_fault : after ((at16 0xE09E).setV 0 0x10#8)
    (fun t => faultOf t == at200 .keyIndexOutOfRange 0xE09E#16 none) = true := by decide

/-- V-T11, V-T12. -/
theorem test_ExA1 : after (((at16 0xE5A1).setV 5 7#8).setKey 7 true) (fun t => t.pc == 0x202#16) = true ∧
    after ((at16 0xE0A1).setV 0 3#8) (fun t => t.pc == 0x204#16) = true := by decide

/-- V-T14, at 0x200. -/
theorem test_Fx0A : after ((at16 0xF30A).setDt 5#8) (fun t => t.status == .wait 3 none && t.pc == 0x200#16 && t.dt == 5#8 &&
    response .runCycle t == .cycle .waiting) = true := by decide

/-- V-T16, V-T17, V-T18, V-T19. -/
theorem test_key_wait :
    (State.reset.setStatus (.wait 3 none)).setKey 0xA true
      = { State.reset with status := .wait 3 (some 0xA), key := (Vector.replicate 16 false).set 10 true, events := [] } ∧
    ({ State.reset with status := .wait 3 none, key := Vector.replicate 16 true }.setKey 0xA true).status = .wait 3 none ∧
    ((State.reset.setStatus (.wait 3 (some 0xA))).setKey 3 true).status = .wait 3 (some 0xA) ∧
    after { State.reset with status := .wait 3 (some 0xA), pc := 0x204#16, dt := 5#8 } (fun t => t.getV 3 == 0xA#8 &&
      t.pc == 0x206#16 && t.status == .run && t.dt == 4#8 && response .runCycle t == .cycle .ok) = true := by decide

/-! ## The cycle and the transactions -/

/-- V-F1, V-F2: the fetch faults. -/
theorem test_fetch_fault : after { State.reset with pc := 0xFFF#16 }
      (fun t => faultOf t == some ⟨.addressOutOfRange, 0xFFF#16, none, some 0x1000⟩) = true ∧
    after { State.reset with pc := 0x1000#16 }
      (fun t => faultOf t == some ⟨.addressOutOfRange, 0x1000#16, none, some 0x1000⟩) = true := by decide

/-- V-F3 and V-E10: the last fetchable word, and an odd PC. -/
theorem test_fetch_edges : after ((State.reset.setPc 0xFFE#16).writeBytes 0xFFE [0x60#8, 7#8])
      (fun t => t.getV 0 == 7#8 && t.pc == 0x1000#16) = true ∧
    after ((State.reset.setPc 0x301#16).writeBytes 0x301 [0x6A#8, 0x42#8])
      (fun t => t.getV 0xA == 0x42#8 && t.pc == 0x303#16) = true := by decide

/-- V-F6, V-F7, V-T6. -/
theorem test_tick : after (((at16 0x6000).setDt 3#8).setSt 2#8) (fun t => t.dt == 2#8 && t.st == 1#8) = true ∧
    after ((at16 0x5011).setDt 3#8) (fun t => t.dt == 3#8) = true ∧
    after ((at16 0x6000).setSt 1#8) (fun t => t.st == 0#8 && t.events == [.toneEnd]) = true := by decide

/-- The configuration of V-F8. -/
def externalConfig : Config := { defaultConfig with timerMode := .external }

/-- V-F8. -/
theorem test_external : after (((State.resetWith externalConfig).withFetchWord 16 0x6000).setDt 3#8)
      (fun t => t.dt == 3#8 && t.timerTick.dt == 2#8) = true := by decide

/-- V-R4, V-R6, V-R7, and a load of two bytes. -/
theorem test_transactions : (State.reset.loadProgram []).mem = [] ∧
    (State.reset.setStatus (.fault ⟨.fontWrite, 0, none, none⟩)).shutdown.status = .fault ⟨.fontWrite, 0, none, none⟩ ∧
    State.reset.shutdown.status = .halt ∧
    (State.reset.loadProgram [0x12#8, 0#8]).readBytes 0x200 2 = [0x12#8, 0#8] := by decide

/-- R102: a run observes the list of each of its transactions: Clear at reset, none of the load, Clear of the 00E0 (V-D1). -/
theorem test_run_observation :
    (match runFromReset [.loadProgram [0x00#8, 0xE0#8], .runCycle, .shutdown] faulted with
      | .next o => o.state.status == .halt && o.eventLists == [[.clear], [], [.clear], []]
      | .fault _ => false
      | .refused _ => false) = true := by decide

/-- The decoder entry of the host's checks: a word of a row, and an unknown word (V-E2). -/
theorem test_host_interface : decodeTableWord 16 0x6A42 = some (.op6xkk 0xA 0x42) ∧ decodeTableWord 16 0x0000 = none := by
  decide

/-! ## Witnesses: for every statement with hypotheses, a state and operands that meet them, one for each clause -/

/-- What `witness_…` theorems show of a next state: it is answered, and it meets `p`. -/
def answers (r : Result) (p : State → Prop) : Prop := ∃ t, r = .next t ∧ p t

/-- Reset memory and registers, I at `a`. -/
def withI (a : Word) : State := State.reset.setI a

/-! ### Encoding -/

theorem witness_DecodeInvertsEncode : (Instr.opFx65 0xF#4).wellFormed = true ∧ (Instr.opDxyn 0 0 0).wellFormed = true := ⟨rfl, rfl⟩
theorem witness_EncodeInvertsDecode : decode 0xFF65#16 = .ok (.opFx65 0xF#4) ∧ decode 0x8FFE#16 = .ok (.op8xyE 0xF#4 0xF#4) :=
  ⟨rfl, rfl⟩
theorem witness_DecoderFollowsOpcodeTable :
    decode 0x9120#16 = .ok (.op9xy0 1#4 2#4) ∧ (∀ row ∈ opcodeTable, rowMatches row 0x9121#16 = false) ∧
    (⟨"9xy0", 0x9000#16, 0xF00F#16⟩ : OpcodeRow) ∈ opcodeTable ∧ rowMatches ⟨"9xy0", 0x9000#16, 0xF00F#16⟩ 0x9120#16 = true :=
  ⟨rfl, by decide, by decide, by decide⟩

/-! ### The cycle -/

theorem witness_StepRunsDecodedInstruction_run :
    (at16 0x6A42).runsNext (.op6xkk 0xA#4 0x42#8) ∧
    answers (exec (.op6xkk 0xA#4 0x42#8) { at16 0x6A42 with events := [] }) (fun t => t.status = .run) :=
  ⟨⟨rfl, by decide, by decide⟩, _, rfl, rfl⟩
theorem witness_StepRunsDecodedInstruction_not_run :
    (at16 0xF30A).runsNext (.opFx0A 3#4) ∧
    answers (exec (.opFx0A 3#4) { at16 0xF30A with events := [] }) (fun t => t.status ≠ .run) :=
  ⟨⟨rfl, by decide, by decide⟩, _, rfl, nofun⟩
theorem witness_FetchAndDecodeFaults :
    (State.reset.setPc 0xFFF#16).status = .run ∧ 0xFFF < (State.reset.setPc 0xFFF#16).pc.toNat + 1 ∧
    (State.reset.setPc 0xFFE#16).status = .run ∧ (State.reset.setPc 0xFFE#16).pc.toNat + 1 ≤ 0xFFF ∧
    ∀ row ∈ opcodeTable, rowMatches row (State.reset.setPc 0xFFE#16).nextWord = false :=
  ⟨rfl, by decide, rfl, by decide, by decide⟩
theorem witness_FaultingCycleCommitsNothing_word :
    State.reset.status = .run ∧
    answers (step State.reset) (fun t => t.status = .fault ⟨.unknownOpcode, 0x200#16, some 0#16, none⟩) := ⟨rfl, _, rfl, rfl⟩
theorem witness_FaultingCycleCommitsNothing_no_word :
    (State.reset.setPc 0xFFF#16).status = .run ∧
    answers (step (State.reset.setPc 0xFFF#16))
      (fun t => t.status = .fault ⟨.addressOutOfRange, 0xFFF#16, none, some 0x1000⟩) := ⟨rfl, _, rfl, rfl⟩

theorem unfaulted_of_run (s : State) (h : s.status = .run) : s.unfaulted := fun r hr => by rw [h] at hr; cases hr

theorem witness_FatalKinds_stackOverflow :
    ({ State.reset with sp := 16 } : State).unfaulted ∧ answers (exec (.op2nnn 0x300#12) { State.reset with sp := 16 })
      (fun t => t.status = .fault ⟨.stackOverflow, 0x200#16, some 0x2300#16, none⟩) := ⟨unfaulted_of_run _ rfl, _, rfl, rfl⟩
theorem witness_FatalKinds_stackUnderflow :
    State.reset.unfaulted ∧ answers (exec .op00EE State.reset)
      (fun t => t.status = .fault ⟨.stackUnderflow, 0x200#16, some 0x00EE#16, none⟩) := ⟨unfaulted_of_run _ rfl, _, rfl, rfl⟩
theorem witness_FatalKinds_addressOutOfRange :
    (withI 0xFFF#16).unfaulted ∧ answers (exec (.opDxyn 0#4 1#4 2#4) (withI 0xFFF#16))
      (fun t => t.status = .fault ⟨.addressOutOfRange, 0x200#16, some 0xD012#16, some 0x1000⟩) :=
  ⟨unfaulted_of_run _ rfl, _, rfl, rfl⟩
theorem witness_FatalKinds_addressOutOfRange_of_blocks :
    (answers (exec (.opFx33 0#4) (withI 0xFFE#16))
      (fun t => t.status = .fault ⟨.addressOutOfRange, 0x200#16, some 0xF033#16, some 0x1000⟩)) ∧
    (answers (exec (.opFx55 15#4) (withI 0xFF2#16))
      (fun t => t.status = .fault ⟨.addressOutOfRange, 0x200#16, some 0xFF55#16, some 0x1000⟩)) ∧
    (answers (exec (.opFx65 2#4) (withI 0xFFF#16))
      (fun t => t.status = .fault ⟨.addressOutOfRange, 0x200#16, some 0xF265#16, some 0x1000⟩)) :=
  ⟨⟨_, rfl, rfl⟩, ⟨_, rfl, rfl⟩, _, rfl, rfl⟩
theorem witness_FatalKinds_fontWrite :
    (withI 0x4F#16).unfaulted ∧ answers (exec (.opFx33 0#4) (withI 0x4F#16))
      (fun t => t.status = .fault ⟨.fontWrite, 0x200#16, some 0xF033#16, some 0x4F⟩) := ⟨unfaulted_of_run _ rfl, _, rfl, rfl⟩
theorem witness_FatalKinds_keyIndexOutOfRange :
    (State.reset.setV 0 0x10#8).unfaulted ∧ answers (exec (.opEx9E 0#4) (State.reset.setV 0 0x10#8))
      (fun t => t.status = .fault ⟨.keyIndexOutOfRange, 0x200#16, some 0xE09E#16, none⟩) :=
  ⟨unfaulted_of_run _ rfl, _, rfl, rfl⟩

theorem witness_IdleCyclesChangeNothing :
    faulted.status = .fault ⟨.unknownOpcode, 0x200#16, some 0#16, none⟩ ∧ (State.reset.setStatus .halt).status = .halt ∧
    (State.reset.setStatus (.wait 3#4 none)).status = .wait 3#4 none := ⟨rfl, rfl, rfl⟩
theorem witness_OnlyResetLeavesFaultOrHalt :
    Transaction.shutdown ≠ .reset ∧ answers (transact .shutdown faulted) (fun t => t.status = faulted.status) ∧
    answers (transact .runCycle (State.reset.setStatus .halt)) (fun t => t.status = .halt) :=
  ⟨nofun, ⟨_, rfl, rfl⟩, _, rfl, rfl⟩

theorem witness_JumpToItselfRunsForever :
    (at16 0x1200).runsNext (.op1nnn 0x200#12) ∧ (at16 0x1200).pc.toNat = (0x200#12 : Addr12).toNat :=
  ⟨⟨rfl, by decide, by decide⟩, by decide⟩

/-! ### Invariants -/

/-- About to store three bytes at 0xFFD: the store keeps the invariant, at the top of memory. -/
theorem witness_MemoryStaysIntact :
    ((at16 0xF033).setI 0xFFD#16).memoryIntact ∧
    answers (step ((at16 0xF033).setI 0xFFD#16)) (fun t => t.status = .run) ∧
    answers (transact (.loadProgram [1#8]) ((at16 0xF033).setI 0xFFD#16)) (fun t => t.readByte 0x200 = 1#8) :=
  ⟨⟨by decide, by decide⟩, ⟨_, rfl, rfl⟩, _, rfl, by decide⟩

/-- PC at its largest value, and about to call from the last word a cycle can fetch. -/
theorem witness_PcStaysBounded :
    (State.reset.setPc 0x10FE#16).pcBounded ∧
    answers (step (State.reset.setPc 0x10FE#16)) (fun t => t.pc = 0x10FE#16) ∧
    ((State.reset.setPc 0xFFE#16).writeBytes 0xFFE [0x23#8, 0#8]).pcBounded ∧
    answers (transact .runCycle ((State.reset.setPc 0xFFE#16).writeBytes 0xFFE [0x23#8, 0#8]))
      (fun t => t.stack[0] = 0x1000#16) :=
  ⟨⟨by decide, by decide, nofun⟩, ⟨_, rfl, rfl⟩, ⟨by decide, by decide, nofun⟩, _, rfl, by decide⟩
theorem witness_LatchAndConfigurationFrame :
    answers (step (at16 0x6A42)) (fun t => t.getV 0xA#4 = 0x42#8) ∧
    answers (transact .timerTick State.reset) (fun t => t.dt = 0#8) ∧
    Transaction.timerTick ≠ .reset ∧ ∀ k b, Transaction.timerTick ≠ .setKey k b :=
  ⟨⟨_, rfl, by decide⟩, ⟨_, rfl, rfl⟩, nofun, nofun⟩

/-! ### Transactions and timers -/

theorem witness_LoadProgramWritesImage :
    (List.replicate 3584 0xAA#8).length ≤ 3584 ∧ 3584 < (List.replicate 3585 0xAA#8).length ∧ ([] : List Byte).length ≤ 3584 := by
  simp only [List.length_replicate, List.length_nil]; decide
theorem witness_SetKeyWritesSlotAndCapturesEdge :
    ((State.reset.setStatus (.wait 3#4 none)).status = .wait 3#4 none ∧
      (State.reset.setStatus (.wait 3#4 none)).keyAt 0xA#4 = false) ∧
    ((∀ x, State.reset.status ≠ .wait x none) ∧
      ({ State.reset with key := Vector.replicate 16 true } : State).keyAt 0xA#4 = true) := ⟨⟨rfl, rfl⟩, nofun, rfl⟩
theorem witness_TimerTickTransaction :
    ((State.resetWith externalConfig).config.timerMode = .external ∧ (State.resetWith externalConfig).status = .run) ∧
    (((State.resetWith externalConfig).setStatus (.wait 3#4 none)).status = .wait 3#4 none) ∧
    State.reset.config.timerMode = .perCycle ∧ (State.reset.setStatus .halt).status = .halt ∧
    (∃ r, faulted.status = .fault r) ∧ (State.reset.setSt 1#8).st ≠ 0#8 := ⟨⟨rfl, rfl⟩, rfl, rfl, rfl, ⟨_, rfl⟩, by decide⟩
theorem witness_ShutdownHalts :
    faulted.status = .fault ⟨.unknownOpcode, 0x200#16, some 0#16, none⟩ ∧
    ∀ r, (State.reset.setStatus (.wait 3#4 none)).status ≠ .fault r := ⟨rfl, nofun⟩
theorem witness_CompletedCycleTicksOnce :
    ((at16 0x6A42).runsNext (.op6xkk 0xA#4 0x42#8) ∧ (∀ x, Instr.op6xkk 0xA#4 0x42#8 ≠ .opFx15 x) ∧
      (∀ x, Instr.op6xkk 0xA#4 0x42#8 ≠ .opFx18 x) ∧ answers (step (at16 0x6A42)) (fun t => t.status = .run)) ∧
    ((at16 0xF015).runsNext (.opFx15 0#4) ∧ answers (step (at16 0xF015)) (fun t => t.status = .run)) ∧
    ((at16 0xF018).runsNext (.opFx18 0#4) ∧ answers (step (at16 0xF018)) (fun t => t.status = .run)) ∧
    ((at16 0xF30A).runsNext (.opFx0A 3#4) ∧ answers (step (at16 0xF30A)) (fun t => t.status ≠ .run)) ∧
    ((at16 0x00EE).runsNext .op00EE ∧ answers (step (at16 0x00EE)) (fun t => t.status ≠ .run)) :=
  ⟨⟨⟨rfl, by decide, by decide⟩, nofun, nofun, _, rfl, rfl⟩, ⟨⟨rfl, by decide, by decide⟩, _, rfl, rfl⟩,
    ⟨⟨rfl, by decide, by decide⟩, _, rfl, rfl⟩, ⟨⟨rfl, by decide, by decide⟩, _, rfl, nofun⟩,
    ⟨rfl, by decide, by decide⟩, _, rfl, nofun⟩
theorem witness_ToneEndExactlyWhenSoundStops :
    answers (step ((at16 0x6000).setSt 1#8)) (fun t => ((at16 0x6000).setSt 1#8).st ≠ 0#8 ∧ t.st = 0#8) ∧
    answers (step ((at16 0x6000).setSt 2#8)) (fun t => ¬ (((at16 0x6000).setSt 2#8).st ≠ 0#8 ∧ t.st = 0#8)) :=
  ⟨⟨_, rfl, by decide⟩, _, rfl, by decide⟩

/-! ### The key wait and the key skips -/

theorem witness_KeyWaitSuspends : (at16 0xF30A).runsNext (.opFx0A 3#4) := ⟨rfl, by decide, by decide⟩
theorem witness_KeyWaitCompletes :
    (State.reset.setStatus (.wait 0xF#4 (some 0xA#4))).status = .wait 0xF#4 (some 0xA#4) ∧
    (State.reset.setStatus (.wait 0xF#4 (some 0xA#4))).config.timerMode = .perCycle ∧
    ((State.resetWith externalConfig).setStatus (.wait 3#4 (some 0#4))).status = .wait 3#4 (some 0#4) ∧
    ((State.resetWith externalConfig).setStatus (.wait 3#4 (some 0#4))).config.timerMode = .external := ⟨rfl, rfl, rfl, rfl⟩
theorem witness_KeyWaitTakesFirstEdge :
    ((at16 0xF30A).setKey 1 true).runsNext (.opFx0A 3#4) ∧ ((at16 0xF30A).setKey 1 true).keyAt 1#4 = true ∧
    ((at16 0xF30A).setKey 1 true).keyAt 0xA#4 = false := ⟨⟨rfl, by decide, by decide⟩, by decide, by decide⟩
theorem witness_KeySkips :
    ((State.reset.setV 0 0xF#8).getV 0#4).toNat = (0xF#4 : Nibble).toNat ∧ 0xF < ((State.reset.setV 0 0x10#8).getV 0#4).toNat := by
  decide

/-! ### Control flow -/

theorem witness_CallPushesReturnAddress :
    ({ State.reset with sp := 15 } : State).sp.val < 16 ∧ ({ State.reset with sp := 16 } : State).sp.val = 16 := by decide
theorem witness_ReturnPopsAddress :
    ({ State.reset with sp := 16 } : State).sp.val = (15 : Fin 16).val + 1 ∧
    ({ State.reset with sp := 1 } : State).sp.val = (0 : Fin 16).val + 1 ∧ State.reset.sp.val = 0 := by decide
theorem witness_CallThenReturnContinues :
    State.reset.sp.val < 16 ∧ ({ State.reset with sp := 15 } : State).sp.val < 16 := by decide

/-! ### Registers -/

/-- Operands inside and outside the clauses of AddWithCarry, SubtractNotBorrow, ShiftsByOne, and another register. -/
theorem witness_AddWithCarry : (0xE#4 : Nibble) ≠ 0xF#4 ∧ (1#4 : Nibble) ≠ 0xE#4 ∧ (1#4 : Nibble) ≠ 0xF#4 := by decide
theorem witness_SubtractNotBorrow : (0xE#4 : Nibble) ≠ 0xF#4 ∧ (1#4 : Nibble) ≠ 0xE#4 ∧ (1#4 : Nibble) ≠ 0xF#4 := by decide
theorem witness_ShiftsByOne : (0xE#4 : Nibble) ≠ 0xF#4 ∧ (1#4 : Nibble) ≠ 0xE#4 ∧ (1#4 : Nibble) ≠ 0xF#4 := by decide
theorem witness_LoadAndAddImmediateAndLogic : (1#4 : Nibble) ≠ 0xF#4 := by decide
theorem witness_RandomByteIsMaskedDraw : (0#8 : Byte) = 0#8 ∧ (1#4 : Nibble) ≠ 3#4 := by decide
theorem witness_WritersOfVF :
    answers (exec (.op8xy4 0#4 1#4) ((State.reset.setV 0 0xFF#8).setV 1 1#8))
      (fun t => t.getV 0xF#4 ≠ ((State.reset.setV 0 0xFF#8).setV 1 1#8).getV 0xF#4) := ⟨_, rfl, by decide⟩
theorem witness_WritersOfEachPiece :
    answers (exec (.op6xkk 0xA#4 0x42#8) State.reset) (fun t => t.getV 0xA#4 ≠ State.reset.getV 0xA#4) ∧
    answers (exec (.opFx65 1#4) State.reset) (fun t => t.getV 0#4 ≠ State.reset.getV 0#4) ∧
    answers (exec (.opAnnn 0x300#12) State.reset) (fun t => t.i ≠ State.reset.i) ∧
    answers (exec (.op1nnn 0x300#12) State.reset) (fun t => ¬ pcAdvanced 2 State.reset t) ∧
    answers (exec (.opFx0A 3#4) State.reset) (fun t => t.status ≠ State.reset.status) ∧
    answers (exec .op00EE State.reset) (fun t => t.status ≠ State.reset.status) ∧
    answers (exec .op00E0 State.reset) (fun t => t.events ≠ State.reset.events) ∧
    answers (exec (.op2nnn 0x300#12) State.reset) (fun t => ¬ Part.stack.same State.reset t) ∧
    answers (exec (.opDxyn 0#4 0#4 1#4) State.reset) (fun t => ¬ Part.fb.same State.reset t) ∧
    answers (exec (.opFx33 0#4) ((withI 0x50#16).setV 0 100#8)) (fun t => ¬ Part.mem.same ((withI 0x50#16).setV 0 100#8) t) ∧
    answers (exec (.opFx15 0#4) (State.reset.setV 0 1#8)) (fun t => t.dt ≠ (State.reset.setV 0 1#8).dt) ∧
    answers (exec (.opFx18 0#4) (State.reset.setV 0 1#8)) (fun t => t.st ≠ (State.reset.setV 0 1#8).st) ∧
    answers (exec (.opCxkk 0#4 0xFF#8) State.reset) (fun t => t.draws ≠ State.reset.draws) :=
  ⟨⟨_, rfl, by decide⟩, ⟨_, rfl, by decide⟩, ⟨_, rfl, by decide⟩, ⟨_, rfl, by unfold pcAdvanced; decide⟩, ⟨_, rfl, nofun⟩,
    ⟨_, rfl, nofun⟩, ⟨_, rfl, by decide⟩, ⟨_, rfl, fun h => absurd h.1 (by decide)⟩, ⟨_, rfl, fun h => absurd (h 0 0) (by decide)⟩,
    ⟨_, rfl, fun h => absurd (h 0x50) (by decide)⟩, ⟨_, rfl, by decide⟩, ⟨_, rfl, by decide⟩, _, rfl, nofun⟩
theorem witness_FramebufferAndSoundTimerUnread :
    answers (exec (.op6xkk 0xA#4 0x42#8) State.reset) (fun t => t.status = .run) ∧
    (∀ x y n, Instr.op6xkk 0xA#4 0x42#8 ≠ .opDxyn x y n) ∧ Instr.op6xkk 0xA#4 0x42#8 ≠ .op00E0 ∧
    (∀ x, Instr.op6xkk 0xA#4 0x42#8 ≠ .opFx18 x) ∧
    answers (exec .op00E0 State.reset) (fun t => t.status = .run) ∧
    answers (exec (.opFx18 0#4) State.reset) (fun t => t.status = .run) :=
  ⟨⟨_, rfl, rfl⟩, nofun, nofun, nofun, ⟨_, rfl, rfl⟩, _, rfl, rfl⟩

/-! ### Memory -/

theorem witness_BcdStore :
    ((withI 0xFFD#16).dataAddr + 2 ≤ 0xFFF ∧ 0x50 ≤ (withI 0xFFD#16).dataAddr) ∧ 0x50 ≤ (withI 0x50#16).dataAddr ∧
    0xFFF < (withI 0xFFE#16).dataAddr + 2 ∧ (withI 0x4F#16).dataAddr < 0x50 := by decide
theorem witness_RegisterStore :
    ((withI 0xFF1#16).dataAddr + (15#4 : Nibble).toNat - 1 ≤ 0xFFF ∧ 0x50 ≤ (withI 0xFF1#16).dataAddr) ∧
    ((15#4 : Nibble) ≠ 0#4 ∧ 0xFFF < (withI 0xFF2#16).dataAddr + (15#4 : Nibble).toNat - 1) ∧
    ((1#4 : Nibble) ≠ 0#4 ∧ (withI 0x4F#16).dataAddr < 0x50) ∧ (0#4 : Nibble) = 0#4 := by decide
theorem witness_RegisterLoad :
    (withI 0xFFF#16).dataAddr + (1#4 : Nibble).toNat - 1 ≤ 0xFFF ∧ (0#4 : Nibble) = 0#4 ∧
    ((2#4 : Nibble) ≠ 0#4 ∧ 0xFFF < (withI 0xFFF#16).dataAddr + (2#4 : Nibble).toNat - 1) := by decide

/-- The registers are overwritten between the store and the load. -/
theorem witness_StoreThenLoadRestoresRegisters :
    ((withI 0x300#16).setV 0 7#8).unfaulted ∧
    answers (exec (.opFx55 2#4) ((withI 0x300#16).setV 0 7#8)) (fun t => t.unfaulted ∧ changesOnly [.v, .pc] t (t.setV 0 9#8)) := by
  refine ⟨unfaulted_of_run _ rfl, _, rfl, unfaulted_of_run _ rfl, ?_⟩
  intro p hp
  cases p
  case v => exact absurd (by decide) hp
  case stack => exact ⟨rfl, rfl⟩
  case fb => intro _ _; rfl
  case key => intro _; rfl
  case mem => intro _; rfl
  all_goals rfl

/-! ### Display -/

theorem witness_DrawXorsSprite_range :
    spriteInRange (withI 0xFF1#16) 15#4 ∧ spriteInRange (withI 0xFFFF#16) 0#4 := ⟨.inr (by decide), .inl rfl⟩

/-- Glyph 0 at (0, 0): its first cell is drawn, on a cell that is on, and on a cell that is off. -/
theorem witness_DrawXorsSprite_cells :
    (spriteInRange State.reset 5#4 ∧ spriteOn State.reset 0#4 0#4 5#4 0 0) ∧
    (∃ px py, spriteOn (State.reset.setFb (Framebuffer.blank.setCell 0 0 true)) 0#4 0#4 5#4 px py ∧
      Framebuffer.cell (State.reset.setFb (Framebuffer.blank.setCell 0 0 true)).fb px py = true) ∧
    (¬ spriteOn State.reset 0#4 0#4 0#4 0 0) ∧
    (∀ px py, spriteOn State.reset 0#4 0#4 0#4 px py → Framebuffer.cell State.reset.fb px py = false) :=
  ⟨⟨.inr (by decide), 0, 0, by decide, by decide, by decide, by decide, by decide⟩,
    ⟨0, 0, ⟨0, 0, by decide, by decide, by decide, by decide, by decide⟩, by decide⟩,
    fun ⟨_, _, h, _⟩ => absurd h (Nat.not_lt_zero _), fun _ _ ⟨_, _, h, _⟩ => absurd h (Nat.not_lt_zero _)⟩
theorem witness_DrawFaultAndEmptyDraw : (2#4 : Nibble) ≠ 0#4 ∧ 0xFFF < (withI 0xFFF#16).dataAddr + (2#4 : Nibble).toNat - 1 := by
  decide

/-- The configuration of V-D7. -/
def touchedConfig : Config := { defaultConfig with notifyMode := .touched }

theorem witness_DrawNotifications :
    (spriteInRange State.reset 5#4 ∧ answers (exec (.opDxyn 0#4 0#4 5#4) State.reset)
      (fun _ => State.reset.config.notifyMode = .onChange)) ∧
    (spriteInRange (State.resetWith touchedConfig) 5#4 ∧ answers (exec (.opDxyn 0#4 0#4 5#4) (State.resetWith touchedConfig))
      (fun _ => (State.resetWith touchedConfig).config.notifyMode = .touched)) :=
  ⟨⟨.inr (by decide), _, rfl, rfl⟩, .inr (by decide), _, rfl, rfl⟩
theorem witness_DrawTwiceRestores : (0#4 : Nibble) ≠ 0xF#4 ∧ (0xE#4 : Nibble) ≠ 0xF#4 ∧ spriteInRange State.reset 5#4 :=
  ⟨by decide, by decide, .inr (by decide)⟩

end Sys2Proof.Tests
end

section
/-! SUPPORT. Frame rules: an update of a listed piece does not matter to a frame, one rule per state operation, then the frames of
the cycles' ends. -/

namespace Sys2Proof.Machine

theorem Part.same_symm {p : Part} {s t : State} (h : p.same s t) : p.same t s := by cases p <;> simp_all [Part.same]

@[simp] theorem changesOnly_refl (ps : List Part) (s : State) : changesOnly ps s s := fun p _ => p.same_refl s

/-- A change of one listed piece does not matter to a frame. -/
theorem changesOnly_iff_of_changesOnly {ps : List Part} {q : Part} {s t u : State} (h : changesOnly [q] t u) (hq : q ∈ ps) :
    changesOnly ps s u ↔ changesOnly ps s t :=
  have htu : changesOnly ps t u := changesOnly_mono h (by simpa using hq)
  ⟨fun hs => changesOnly_trans hs fun p hp => Part.same_symm (htu p hp), fun hs => changesOnly_trans hs htu⟩

section FrameRules
variable {ps : List Part} {s t : State}

@[simp] theorem changesOnly_setV (r : Nibble) (b : Byte) (h : .v ∈ ps) :
    changesOnly ps s (t.setV r b) ↔ changesOnly ps s t :=
  changesOnly_iff_of_changesOnly (fun p hp => by cases p <;> simp_all [Part.same, State.keyAt]) h

@[simp] theorem changesOnly_setRegsFrom (k : Nat) (bs : List Byte) (h : .v ∈ ps) :
    changesOnly ps s (t.setRegsFrom k bs) ↔ changesOnly ps s t := by
  induction bs generalizing t k with
  | nil => rfl
  | cons b bs ih => rw [State.setRegsFrom, ih, changesOnly_setV _ _ h]

@[simp] theorem changesOnly_setI (a : Word) (h : .i ∈ ps) : changesOnly ps s (t.setI a) ↔ changesOnly ps s t :=
  changesOnly_iff_of_changesOnly (fun p hp => by cases p <;> simp_all [Part.same, State.keyAt]) h

@[simp] theorem changesOnly_setPc (a : Word) (h : .pc ∈ ps) : changesOnly ps s (t.setPc a) ↔ changesOnly ps s t :=
  changesOnly_iff_of_changesOnly (fun p hp => by cases p <;> simp_all [Part.same, State.keyAt]) h

@[simp] theorem changesOnly_withStack (k : Fin 17) (w : Vector Word 16) (h : .stack ∈ ps) :
    changesOnly ps s { t with stack := w, sp := k } ↔ changesOnly ps s t :=
  changesOnly_iff_of_changesOnly
    (fun p hp => by cases p <;> simp_all [Part.same, State.keyAt, State.getV, State.readByte]) h

@[simp] theorem changesOnly_setDt (b : Byte) (h : .dt ∈ ps) : changesOnly ps s (t.setDt b) ↔ changesOnly ps s t :=
  changesOnly_iff_of_changesOnly (fun p hp => by cases p <;> simp_all [Part.same, State.keyAt]) h

@[simp] theorem changesOnly_setSt (b : Byte) (h : .st ∈ ps) : changesOnly ps s (t.setSt b) ↔ changesOnly ps s t :=
  changesOnly_iff_of_changesOnly (fun p hp => by cases p <;> simp_all [Part.same, State.keyAt]) h

@[simp] theorem changesOnly_setFb (f : Framebuffer) (h : .fb ∈ ps) : changesOnly ps s (t.setFb f) ↔ changesOnly ps s t :=
  changesOnly_iff_of_changesOnly (fun p hp => by cases p <;> simp_all [Part.same, State.keyAt]) h

@[simp] theorem changesOnly_writeBytes (a : Nat) (bs : List Byte) (h : .mem ∈ ps) :
    changesOnly ps s (t.writeBytes a bs) ↔ changesOnly ps s t :=
  changesOnly_iff_of_changesOnly (fun p hp => by cases p <;> simp_all [Part.same, State.keyAt]) h

@[simp] theorem changesOnly_setStatus (q : Status) (h : .status ∈ ps) :
    changesOnly ps s (t.setStatus q) ↔ changesOnly ps s t :=
  changesOnly_iff_of_changesOnly (fun p hp => by cases p <;> simp_all [Part.same, State.keyAt]) h

@[simp] theorem changesOnly_raiseFatal (f : Fatal) (w : Option Word) (h : .status ∈ ps) :
    changesOnly ps s (t.raiseFatal f w) ↔ changesOnly ps s t := changesOnly_setStatus _ h

@[simp] theorem changesOnly_takeDraw (h : .draws ∈ ps) : changesOnly ps s t.takeDraw.2 ↔ changesOnly ps s t :=
  changesOnly_iff_of_changesOnly (fun p hp => by cases p <;> simp_all [Part.same, State.keyAt]) h

@[simp] theorem changesOnly_emit (es : List Event) (h : .events ∈ ps) :
    changesOnly ps s (t.emit es) ↔ changesOnly ps s t :=
  changesOnly_iff_of_changesOnly (fun p hp => by cases p <;> simp_all [Part.same, State.keyAt]) h

@[simp] theorem changesOnly_clearEvents (h : .events ∈ ps) : changesOnly ps s t.clearEvents ↔ changesOnly ps s t :=
  changesOnly_iff_of_changesOnly (fun p hp => by cases p <;> simp_all [Part.same, State.keyAt]) h

/-! ### Ticks and ends of cycles -/

@[simp] theorem changesOnly_tick (hdt : .dt ∈ ps) (hst : .st ∈ ps) : changesOnly ps s t.tick ↔ changesOnly ps s t := by
  simp [State.tick, hdt, hst]

@[simp] theorem changesOnly_cycleTick (hdt : .dt ∈ ps) (hst : .st ∈ ps) :
    changesOnly ps s t.cycleTick ↔ changesOnly ps s t := by
  rw [State.cycleTick_eq]
  split <;> simp [hdt, hst]

@[simp] theorem changesOnly_toneEnd (b : Byte) (h : .events ∈ ps) :
    changesOnly ps s (t.toneEnd b) ↔ changesOnly ps s t := by
  unfold State.toneEnd
  split <;> simp [h]

@[simp] theorem changesOnly_endCycle (b : Byte) (hdt : .dt ∈ ps) (hst : .st ∈ ps) (he : .events ∈ ps) :
    changesOnly ps s (t.endCycle b) ↔ changesOnly ps s t := by
  by_cases h : t.status = .run
  · simp [State.endCycle_of_run b h, hdt, hst, he]
  · rw [State.endCycle_of_not_run b h]

end FrameRules

end Sys2Proof.Machine
end

section
/-! SUPPORT. What each instruction may do, by the opcode table: the pieces and registers it writes, where it leads PC, and
whether it can raise a fatal error. `exec_cases` below ties these tables to the model. -/

namespace Sys2Proof

open Machine

/-- The pieces an instruction that completes may write: PC for all but Fx0A, and its own beside it (R18 to R38). -/
def Instr.writes : Instr → List Part
  | .op00E0 => [.fb, .events, .pc]
  | .op00EE | .op2nnn _ => [.stack, .pc]
  | .op6xkk _ _ | .op7xkk _ _ | .op8xy0 _ _ | .op8xy1 _ _ | .op8xy2 _ _ | .op8xy3 _ _ | .op8xy4 _ _ | .op8xy5 _ _
  | .op8xy6 _ _ | .op8xy7 _ _ | .op8xyE _ _ | .opFx07 _ | .opFx65 _ => [.v, .pc]
  | .opCxkk _ _ => [.v, .draws, .pc]
  | .opDxyn _ _ _ => [.v, .fb, .events, .pc]
  | .opAnnn _ | .opFx1E _ | .opFx29 _ => [.i, .pc]
  | .opFx33 _ | .opFx55 _ => [.mem, .pc]
  | .opFx15 _ => [.dt, .pc]
  | .opFx18 _ => [.st, .pc]
  | .opFx0A _ => [.status]
  | .op1nnn _ | .op3xkk _ _ | .op4xkk _ _ | .op5xy0 _ _ | .op9xy0 _ _ | .opBnnn _ | .opEx9E _ | .opExA1 _ => [.pc]

/-- The registers an instruction may write: its destination, V0 … V(x−1) for Fx65, VF for a flag (R18, R20). -/
def Instr.writesReg (r : Nibble) : Instr → Prop
  | .op6xkk x _ | .op7xkk x _ | .opCxkk x _ | .op8xy0 x _ | .op8xy1 x _ | .op8xy2 x _ | .op8xy3 x _ | .opFx07 x => r = x
  | .op8xy4 x _ | .op8xy5 x _ | .op8xy6 x _ | .op8xy7 x _ | .op8xyE x _ => r = x ∨ r = 0xF#4
  | .opDxyn _ _ _ => r = 0xF#4
  | .opFx65 x => r.toNat < x.toNat
  | _ => False

/-- Where PC stands after an instruction that completes from `s` (R94). -/
def Instr.leadsTo (s : State) (p : Word) : Instr → Prop
  | .op00EE => ∃ k : Fin 16, p = s.stack[k]
  | .op1nnn nnn | .op2nnn nnn => p = addrOperand nnn
  | .opBnnn nnn => p = s.jumpTarget nnn
  | .op3xkk _ _ | .op4xkk _ _ | .op5xy0 _ _ | .op9xy0 _ _ | .opEx9E _ | .opExA1 _ => ∃ taken, p = s.skipTarget taken
  | .opFx0A _ => p = s.pc
  | _ => p = s.pc + 2#16

/-- The instructions that can raise a fatal error (R159 to R164). -/
def Instr.mayRaise : Instr → Prop
  | .op00EE | .op2nnn _ | .opDxyn _ _ _ | .opEx9E _ | .opExA1 _ | .opFx33 _ | .opFx55 _ | .opFx65 _ => True
  | _ => False

/-! ### Which instructions write a piece -/

theorem Instr.i_mem_writes {i : Instr} (h : .i ∈ i.writes) : ∃ x nnn, i = .opAnnn nnn ∨ i = .opFx1E x ∨ i = .opFx29 x := by
  cases i <;> simp_all [Instr.writes]

theorem Instr.stack_mem_writes {i : Instr} (h : .stack ∈ i.writes) : i = .op00EE ∨ ∃ nnn, i = .op2nnn nnn := by
  cases i <;> simp_all [Instr.writes]

theorem Instr.fb_mem_writes {i : Instr} (h : .fb ∈ i.writes) : i = .op00E0 ∨ ∃ x y n, i = .opDxyn x y n := by
  cases i <;> simp_all [Instr.writes]

theorem Instr.events_mem_writes {i : Instr} (h : .events ∈ i.writes) : i = .op00E0 ∨ ∃ x y n, i = .opDxyn x y n := by
  cases i <;> simp_all [Instr.writes]

theorem Instr.mem_mem_writes {i : Instr} (h : .mem ∈ i.writes) : ∃ x, i = .opFx33 x ∨ i = .opFx55 x := by
  cases i <;> simp_all [Instr.writes]

theorem Instr.dt_mem_writes {i : Instr} (h : .dt ∈ i.writes) : ∃ x, i = .opFx15 x := by
  cases i <;> simp_all [Instr.writes]

theorem Instr.st_mem_writes {i : Instr} (h : .st ∈ i.writes) : ∃ x, i = .opFx18 x := by
  cases i <;> simp_all [Instr.writes]

theorem Instr.draws_mem_writes {i : Instr} (h : .draws ∈ i.writes) : ∃ x kk, i = .opCxkk x kk := by
  cases i <;> simp_all [Instr.writes]

theorem Instr.status_mem_writes {i : Instr} (h : .status ∈ i.writes) : ∃ x, i = .opFx0A x := by
  cases i <;> simp_all [Instr.writes]

theorem Instr.key_not_mem_writes (i : Instr) : .key ∉ i.writes := by
  cases i <;> simp [Instr.writes]

theorem Instr.config_not_mem_writes (i : Instr) : .config ∉ i.writes := by
  cases i <;> simp [Instr.writes]

/-! ### The registers written, PC, fatal errors -/

theorem Instr.writesReg_cases {i : Instr} {r : Nibble} (h : i.writesReg r) :
    (∃ kk, i = .op6xkk r kk ∨ i = .op7xkk r kk ∨ i = .opCxkk r kk) ∨
      (∃ y, i = .op8xy0 r y ∨ i = .op8xy1 r y ∨ i = .op8xy2 r y ∨ i = .op8xy3 r y ∨ i = .op8xy4 r y ∨ i = .op8xy5 r y ∨
        i = .op8xy6 r y ∨ i = .op8xy7 r y ∨ i = .op8xyE r y) ∨
      i = .opFx07 r ∨ (∃ x, i = .opFx65 x ∧ r.toNat < x.toNat) ∨
      (r = 0xF#4 ∧ ∃ x y n, i = .op8xy4 x y ∨ i = .op8xy5 x y ∨ i = .op8xy6 x y ∨ i = .op8xy7 x y ∨ i = .op8xyE x y ∨
        i = .opDxyn x y n) := by
  cases i <;> simp_all [Instr.writesReg, eq_comm]

/-- Fx65 never names VF: it loads fewer than sixteen registers (R131). -/
theorem Instr.writesReg_VF_cases {i : Instr} (h : i.writesReg 0xF#4) :
    (∃ x y, i = .op8xy4 x y ∨ i = .op8xy5 x y ∨ i = .op8xy6 x y ∨ i = .op8xy7 x y ∨ i = .op8xyE x y) ∨
    (∃ x y n, i = .opDxyn x y n) ∨
    (∃ kk, i = .op6xkk 0xF#4 kk ∨ i = .op7xkk 0xF#4 kk ∨ i = .opCxkk 0xF#4 kk) ∨
    (∃ y, i = .op8xy0 0xF#4 y ∨ i = .op8xy1 0xF#4 y ∨ i = .op8xy2 0xF#4 y ∨ i = .op8xy3 0xF#4 y) ∨
    i = .opFx07 0xF#4 := by
  cases i
  case opFx65 x => exact absurd h (by have := x.isLt; simp [Instr.writesReg]; omega)
  all_goals simp_all [Instr.writesReg, eq_comm]

theorem Instr.mayRaise_cases {i : Instr} (h : i.mayRaise) :
    i = .op00EE ∨ (∃ nnn, i = .op2nnn nnn) ∨ (∃ x y n, i = .opDxyn x y n) ∨
      ∃ x, i = .opEx9E x ∨ i = .opExA1 x ∨ i = .opFx33 x ∨ i = .opFx55 x ∨ i = .opFx65 x := by
  cases i <;> simp_all [Instr.mayRaise]

/-- Only the instructions of R94 leave PC elsewhere than at the next word. -/
theorem Instr.leadsTo_cases {i : Instr} {s : State} {p : Word} (h : i.leadsTo s p) (hp : p ≠ s.pc + 2#16) :
    i = .op00EE ∨ (∃ nnn, i = .op1nnn nnn ∨ i = .op2nnn nnn ∨ i = .opBnnn nnn) ∨
      (∃ x kk, i = .op3xkk x kk ∨ i = .op4xkk x kk) ∨ (∃ x y, i = .op5xy0 x y ∨ i = .op9xy0 x y) ∨
      (∃ x, i = .opEx9E x ∨ i = .opExA1 x ∨ i = .opFx0A x) := by
  cases i <;> simp_all [Instr.leadsTo]

end Sys2Proof
end

section
/-! SUPPORT. What an execute stage can do, said once for all instructions. -/

namespace Sys2Proof.Machine

/-- What an instruction that completes leaves: only its own pieces and registers changed, at most one stack slot overwritten, by
a call, and PC where the instruction leads. -/
structure Completes (i : Instr) (s t : State) : Prop where
  frame : changesOnly i.writes s t
  regs  : ∀ r, ¬ i.writesReg r → t.getV r = s.getV r
  slots : ∀ k : Fin 16, t.stack[k] = s.stack[k] ∨ (∃ nnn, i = .op2nnn nnn) ∧ t.stack[k] = s.pc + 2#16
  pc    : i.leadsTo s t.pc

/-- An instruction that goes on from a checked operation completes or takes the operation's fatal error. -/
theorem orRaise_completes_or_raises {α : Type} {i : Instr} {s t : State} {r : Except Fatal α} {k : α → Result}
    (hi : i.mayRaise) (h : orRaise s i r k = .next t) (hk : ∀ a, r = .ok a → k a = .next t → Completes i s t) :
    Completes i s t ∨ (i.mayRaise ∧ ∃ f, t = s.raiseFatal f (some (encode i))) := by
  rcases orRaise_cases h with ⟨a, ha, hka⟩ | ⟨f, -, hf⟩
  · exact .inl (hk a ha hka)
  · exact .inr ⟨hi, f, hf⟩

theorem exec2nnn_completes {nnn : Addr12} {s t u : State} (hu : s.push (s.pc + 2#16) = .ok u)
    (ht : u.setPc (addrOperand nnn) = t) : Completes (.op2nnn nnn) s t := by
  rcases s.push_cases (s.pc + 2#16) with ⟨hsp, he⟩ | ⟨-, he⟩
  · cases he.symm.trans hu
    subst ht
    refine ⟨by simp [Instr.writes], fun r _ => rfl, fun k => ?_, rfl⟩
    by_cases hk : s.sp.val = k.val <;> simp [hk]
  · cases he.symm.trans hu

theorem exec00EE_completes {s t u : State} {a : Word} (hu : s.pop = .ok (a, u)) (ht : u.setPc a = t) :
    Completes .op00EE s t := by
  rcases s.pop_cases with ⟨hsp, he⟩ | ⟨-, he⟩
  · cases he.symm.trans hu
    subst ht
    exact ⟨by simp [Instr.writes], fun r _ => rfl, fun k => .inl rfl, ⟨s.sp.val - 1, by omega⟩, rfl⟩
  · cases he.symm.trans hu

theorem execFx65_completes {x : Nibble} {s t : State} {bs : List Byte} (hbs : bs.length = x.toNat)
    (ht : (s.setRegsFrom 0 bs).setPc ((s.setRegsFrom 0 bs).pc + 2#16) = t) : Completes (.opFx65 x) s t := by
  have hx : x.toNat < 16 := x.isLt
  have hv := s.setRegsFrom_eq bs 0
  subst ht
  refine ⟨by simp [Instr.writes], fun r hr => ?_, fun k => .inl (by rw [hv]; rfl), by rw [hv]; rfl⟩
  have hr : ¬ r.toNat < x.toNat := hr
  rw [State.getV_setPc, State.getV_setRegsFrom bs s 0 (by omega), dif_neg (by omega)]

/-- All that an execute stage can do: complete, or take a fatal error at the state it began in (R94, R98). -/
theorem exec_cases {i : Instr} {s t : State} (h : exec i s = .next t) :
    Completes i s t ∨ (i.mayRaise ∧ ∃ f, t = s.raiseFatal f (some (encode i))) := by
  cases i
  case op00EE =>
    exact orRaise_completes_or_raises trivial h fun (a, u) hp ht => exec00EE_completes hp (by cases ht; rfl)
  case op2nnn nnn =>
    exact orRaise_completes_or_raises trivial h fun u hu ht => exec2nnn_completes hu (by cases ht; rfl)
  case opFx65 x =>
    refine orRaise_completes_or_raises trivial h fun bs hbs ht => ?_
    obtain ⟨-, hbs⟩ := (s.memRead_ok_iff ..).1 hbs
    exact execFx65_completes (bs := bs) (by rw [hbs, State.length_readBytes]) (by cases ht; rfl)
  case opFx33 | opFx55 =>
    refine orRaise_completes_or_raises trivial h fun u hu ht => ?_
    obtain ⟨-, rfl⟩ := (s.memWrite_ok_iff ..).1 hu
    cases ht
    exact ⟨by simp [Instr.writes], fun r _ => rfl, fun k => .inl rfl, rfl⟩
  case opDxyn x y n =>
    refine orRaise_completes_or_raises trivial h fun rows _ ht => ?_
    cases ht
    exact ⟨by simp [Instr.writes], fun r hr => State.getV_setV_ne s _ hr, fun k => .inl rfl, rfl⟩
  case opEx9E | opExA1 =>
    refine orRaise_completes_or_raises trivial h fun k _ ht => ?_
    cases ht
    exact ⟨by simp [Instr.writes], fun r _ => rfl, fun k => .inl rfl, _, rfl⟩
  case op3xkk | op4xkk | op5xy0 | op9xy0 =>
    cases h
    exact .inl ⟨by simp [Instr.writes], fun r _ => rfl, fun k => .inl rfl, _, rfl⟩
  case op6xkk | op7xkk | opCxkk | op8xy0 | op8xy1 | op8xy2 | op8xy3 | opFx07 =>
    cases h
    exact .inl ⟨by simp [Instr.writes], fun r hr => State.getV_setV_ne _ _ hr, fun k => .inl rfl, rfl⟩
  case op8xy4 | op8xy5 | op8xy6 | op8xy7 | op8xyE =>
    cases h
    exact .inl ⟨by simp [Instr.writes, State.setResultThenFlag, State.setFlagThenResult],
      fun r hr => by simp_all [Instr.writesReg, State.getV_setResultThenFlag, State.getV_setFlagThenResult],
      fun k => .inl rfl, rfl⟩
  all_goals
    cases h
    exact .inl ⟨by simp [Instr.writes], fun r _ => rfl, fun k => .inl rfl, rfl⟩

/-- An execute stage writes STATUS and the instruction's own pieces, and no other. -/
theorem exec_changesOnly {i : Instr} {s t : State} (h : exec i s = .next t) : changesOnly (.status :: i.writes) s t := by
  rcases exec_cases h with hc | ⟨-, f, rfl⟩
  · exact changesOnly_mono hc.frame fun p hp => List.mem_cons_of_mem _ hp
  · simp

/-- A piece other than STATUS that an execute stage changed is one of the instruction's own. -/
theorem mem_writes_of_not_same {i : Instr} {s t : State} {p : Part} (h : exec i s = .next t) (hp : p ≠ .status)
    (hne : ¬ p.same s t) : p ∈ i.writes := by
  by_contra hw
  exact hne (exec_changesOnly h p (by simp [hp, hw]))

theorem writesReg_of_getV_ne {i : Instr} {s t : State} {r : Nibble} (h : exec i s = .next t)
    (hne : t.getV r ≠ s.getV r) : i.writesReg r := by
  by_contra hr
  rcases exec_cases h with hc | ⟨-, f, rfl⟩
  · exact hne (hc.regs r hr)
  · exact hne rfl

/-- STATUS is changed by Fx0A, which waits, and by a fatal error alone (R38, R98, R148). -/
theorem exec_status_cases {i : Instr} {s t : State} (h : exec i s = .next t) (hne : t.status ≠ s.status) :
    (∃ x, i = .opFx0A x ∧ t.status = .wait x none) ∨ ((∃ r, t.status = .fault r) ∧ i.mayRaise) := by
  rcases exec_cases h with hc | ⟨hi, f, rfl⟩
  · have hw : .status ∈ i.writes := by
      by_contra hn
      exact hne (hc.frame .status hn)
    obtain ⟨x, rfl⟩ := Instr.status_mem_writes hw
    cases h
    exact .inl ⟨x, rfl, rfl⟩
  · exact .inr ⟨⟨_, rfl⟩, hi⟩

end Sys2Proof.Machine
end

section
/-! PROOFS. Who writes what (spec/10_state.md). -/

namespace Sys2Proof.Machine

theorem pcAdvanced_two_iff (s t : State) : pcAdvanced 2 s t ↔ t.pc = s.pc + 2#16 := by
  rw [pcAdvanced, ← toNat_add_small s.pc 2 (by decide), BitVec.toNat_inj]

/-- An execute stage that does not advance PC by 2 is a control transfer, a skip or Fx0A, or has faulted (R94). -/
theorem exec_pc_cases {i : Instr} {s t : State} (h : exec i s = .next t) (hne : ¬ pcAdvanced 2 s t) :
    i = .op00EE ∨ (∃ nnn, i = .op1nnn nnn ∨ i = .op2nnn nnn ∨ i = .opBnnn nnn) ∨
      (∃ x kk, i = .op3xkk x kk ∨ i = .op4xkk x kk) ∨ (∃ x y, i = .op5xy0 x y ∨ i = .op9xy0 x y) ∨
      (∃ x, i = .opEx9E x ∨ i = .opExA1 x ∨ i = .opFx0A x) ∨ (t.pc = s.pc ∧ ∃ r, t.status = .fault r) := by
  rcases exec_cases h with hc | ⟨-, f, rfl⟩
  · have hpc := Instr.leadsTo_cases hc.pc (mt (pcAdvanced_two_iff s t).2 hne)
    simpa only [or_assoc] using Or.inl (b := t.pc = s.pc ∧ ∃ r, t.status = .fault r) hpc
  · exact .inr (.inr (.inr (.inr (.inr ⟨rfl, _, rfl⟩))))

/-- Settles O46: a register that an execute stage changed is one the instruction writes, here VF. -/
theorem writersOfVF : Obligations.WritersOfVF :=
  fun _ _ _ h hne => Instr.writesReg_VF_cases (writesReg_of_getV_ne h hne)

/-- Settles O47: each clause reads off the instructions that list the piece. -/
theorem writersOfEachPiece : Obligations.WritersOfEachPiece := by
  intro i s t h
  have hw (p : Part) (hp : p ≠ .status) (hne : ¬ p.same s t) : p ∈ i.writes := mem_writes_of_not_same h hp hne
  refine ⟨fun r hne => Instr.writesReg_cases (writesReg_of_getV_ne h hne), fun hne => Instr.i_mem_writes (hw .i nofun hne),
    ?fx0A, exec_pc_cases h, fun hne => Instr.stack_mem_writes (hw .stack nofun hne),
    fun hne => Instr.fb_mem_writes (hw .fb nofun hne), fun hne => Instr.mem_mem_writes (hw .mem nofun hne),
    fun hne => Instr.dt_mem_writes (hw .dt nofun hne), fun hne => Instr.st_mem_writes (hw .st nofun hne),
    fun hne => (exec_status_cases h hne).imp id fun ⟨hr, hi⟩ => ⟨hr, Instr.mayRaise_cases hi⟩,
    fun hne => Instr.events_mem_writes (hw .events nofun hne), fun hne => Instr.draws_mem_writes (hw .draws nofun hne),
    exec_changesOnly h .key (by simp [Instr.key_not_mem_writes]),
    exec_changesOnly h .config (by simp [Instr.config_not_mem_writes])⟩
  case fx0A =>
    rintro ⟨x, rfl⟩
    cases h
    rfl

end Sys2Proof.Machine
end

section
/-! PROOFS. What no instruction reads: the framebuffer, but for Dxyn, and ST (R32, R33, R65). -/

namespace Sys2Proof.Machine

/-- The state with another framebuffer and another sound timer: ST is read by no instruction, and the
framebuffer by Dxyn alone. -/
def State.withUnread (s : State) (f : Framebuffer) (b : Byte) : State := (s.setFb f).setSt b

section Unread
variable (s : State) (f : Framebuffer) (b : Byte)

theorem State.setFb_eq_withUnread : s.setFb f = s.withUnread f s.st := rfl
theorem State.setSt_eq_withUnread : s.setSt b = s.withUnread s.fb b := rfl

theorem State.readBytes_withUnread (a n : Nat) : (s.withUnread f b).readBytes a n = s.readBytes a n := by
  induction n generalizing a with
  | zero => rfl
  | succ n ih => rw [State.readBytes, ih]; rfl

theorem State.memRead_withUnread (a n : Nat) : (s.withUnread f b).memRead a n = s.memRead a n := by
  simp only [State.memRead, State.readBytes_withUnread]

theorem State.memWrite_withUnread (a : Nat) (bs : List Byte) :
    (s.withUnread f b).memWrite a bs = (s.memWrite a bs).map (·.withUnread f b) := by
  unfold State.memWrite
  split <;> rfl

theorem State.push_withUnread (a : Word) : (s.withUnread f b).push a = (s.push a).map (·.withUnread f b) := by
  by_cases h : s.sp.val < 16
  · simp [State.push, State.withUnread, h, Except.map]
    rfl
  · simp [State.push, State.withUnread, h, Except.map]

theorem State.pop_withUnread : (s.withUnread f b).pop = s.pop.map fun p => (p.1, p.2.withUnread f b) := by
  by_cases h : 0 < s.sp.val
  · simp [State.pop, State.withUnread, h, Except.map]
    rfl
  · simp [State.pop, State.withUnread, h, Except.map]

theorem State.setRegsFrom_withUnread (k : Nat) (bs : List Byte) :
    (s.withUnread f b).setRegsFrom k bs = (s.setRegsFrom k bs).withUnread f b := by
  induction bs generalizing s k with
  | nil => rfl
  | cons c bs ih => exact ih (s.setV (BitVec.ofNat 4 k) c) (k + 1)

end Unread

/-- A checked operation that sees neither piece, followed by a meaning that sees neither, sees neither. -/
theorem orRaise_withUnread {α : Type} {i : Instr} {s t : State} {f : Framebuffer} {b : Byte} {r r' : Except Fatal α}
    {k k' : α → Result} (g : α → α) (h : orRaise s i r k = .next t) (hr : r' = r.map g)
    (hk : ∀ a, k a = .next t → k' (g a) = .next (t.withUnread f b)) :
    orRaise (s.withUnread f b) i r' k' = .next (t.withUnread f b) := by
  rcases orRaise_cases h with ⟨a, rfl, ha⟩ | ⟨e, rfl, rfl⟩
  · exact hr ▸ hk a ha
  · exact hr ▸ rfl

/-- The same for an operation whose value holds no state. -/
theorem orRaise_withUnread_of_eq {α : Type} {i : Instr} {s t : State} {f : Framebuffer} {b : Byte} {r r' : Except Fatal α}
    {k k' : α → Result} (h : orRaise s i r k = .next t) (hr : r' = r)
    (hk : ∀ a, k a = .next t → k' a = .next (t.withUnread f b)) :
    orRaise (s.withUnread f b) i r' k' = .next (t.withUnread f b) :=
  orRaise_withUnread id h (by rw [hr, Except.map_id]; rfl) hk

/-- An instruction that writes neither the framebuffer nor ST reads neither (R32, R33, R65). -/
theorem exec_withUnread {i : Instr} {s t : State} (h : exec i s = .next t) (hfb : .fb ∉ i.writes) (hst : .st ∉ i.writes)
    (f : Framebuffer) (b : Byte) : exec i (s.withUnread f b) = .next (t.withUnread f b) := by
  cases i
  case op00E0 | opDxyn => simp [Instr.writes] at hfb
  case opFx18 => simp [Instr.writes] at hst
  case op00EE => exact orRaise_withUnread _ h (s.pop_withUnread f b) fun p hp => by cases hp; rfl
  case op2nnn nnn => exact orRaise_withUnread _ h (s.push_withUnread f b _) fun u hu => by cases hu; rfl
  case opFx33 | opFx55 => exact orRaise_withUnread _ h (s.memWrite_withUnread f b _ _) fun u hu => by cases hu; rfl
  case opEx9E | opExA1 => exact orRaise_withUnread_of_eq h rfl fun k hk => by cases hk; rfl
  case opFx65 x =>
    refine orRaise_withUnread_of_eq h (s.memRead_withUnread f b _ _) fun bs hbs => ?_
    cases hbs
    rw [State.setRegsFrom_withUnread]
    rfl
  all_goals cases h; rfl

/-- Dxyn, which reads the framebuffer, does not read ST (R32). -/
theorem execDxyn_setSt {x y n : Nibble} {s t : State} (h : exec (.opDxyn x y n) s = .next t) (b : Byte) :
    exec (.opDxyn x y n) (s.setSt b) = .next (t.setSt b) := by
  have hr : (s.setSt b).memRead s.dataAddr n.toNat = s.memRead s.dataAddr n.toNat := s.memRead_withUnread s.fb b _ _
  show orRaise (s.setSt b) _ ((s.setSt b).memRead s.dataAddr n.toNat) _ = _
  rcases orRaise_cases h with ⟨rows, hrows, ht⟩ | ⟨e, he, rfl⟩
  · cases ht
    rw [hr, hrows]
    rfl
  · rw [hr, he]
    rfl

/-- Settles O48: an instruction that writes neither piece sees neither; 00E0, Dxyn and Fx18, which write one, are taken apart. -/
theorem framebufferAndSoundTimerUnread : Obligations.FramebufferAndSoundTimerUnread := by
  intro i s t h
  refine ⟨fun f hD h0 => ?_, ?_, fun b h18 => ?_, ?_⟩
  · have hfb : .fb ∉ i.writes := fun hw => (Instr.fb_mem_writes hw).elim h0 fun ⟨x, y, n, e⟩ => hD x y n e
    by_cases hst : .st ∈ i.writes
    · obtain ⟨x, rfl⟩ := Instr.st_mem_writes hst
      cases h
      rfl
    · have ht : t.st = s.st := exec_changesOnly h .st (by simpa using hst)
      rw [State.setFb_eq_withUnread, State.setFb_eq_withUnread, ht]
      exact exec_withUnread h hfb hst f s.st
  · rintro f rfl
    cases h
    rfl
  · have hst : .st ∉ i.writes := fun hw => have ⟨x, e⟩ := Instr.st_mem_writes hw; h18 x e
    by_cases hfb : .fb ∈ i.writes
    · rcases Instr.fb_mem_writes hfb with rfl | ⟨x, y, n, rfl⟩
      · cases h
        rfl
      · exact execDxyn_setSt h b
    · have ht : t.fb = s.fb := Framebuffer.ext_cell (exec_changesOnly h .fb (by simpa using hfb))
      rw [State.setSt_eq_withUnread, State.setSt_eq_withUnread, ht]
      exact exec_withUnread h hfb hst s.fb b
  · rintro b ⟨x, rfl⟩
    cases h
    rfl

end Sys2Proof.Machine
end

section
/-! PROOFS. The frames of steps and transactions, and the latch and the configuration (R34, R44). -/

namespace Sys2Proof.Machine

/-- The completing cycle of Fx0A writes Vx, PC, STATUS, the timers and the events alone (R150). -/
theorem completeWait_changesOnly (s : State) (x k : Nibble) :
    changesOnly [.v, .pc, .status, .dt, .st, .events] s (s.completeWait x k) := by
  simp [State.completeWait]

theorem setKey_changesOnly (s : State) (k : Nibble) (b : Bool) :
    changesOnly [.key, .status, .events] s (s.setKey k b) := by
  have : changesOnly [.key, .status, .events] s { s with key := s.key.set k.toNat b, events := [] } := fun p hp => by
    cases p <;> simp_all [Part.same, State.getV, State.readByte]
  unfold State.setKey
  split
  case h_1 => split <;> simp [this]
  all_goals exact this

theorem loadProgram_changesOnly (s : State) (bs : List Byte) : changesOnly [.mem, .events] s (s.loadProgram bs) := by
  unfold State.loadProgram
  split <;> simp

theorem timerTick_changesOnly (s : State) : changesOnly [.dt, .st, .events] s s.timerTick := by
  unfold State.timerTick
  split
  · simp
  · split <;> simp

theorem shutdown_changesOnly (s : State) : changesOnly [.status, .events] s s.shutdown := by
  unfold State.shutdown
  split <;> simp

/-- The pieces a cycle may write: all but the latch and the configuration. -/
def cycleParts : List Part := [.v, .i, .pc, .stack, .dt, .st, .fb, .mem, .status, .draws, .events]

@[simp] theorem mem_cycleParts {p : Part} : p ∈ cycleParts ↔ p ≠ .key ∧ p ≠ .config := by
  cases p <;> simp [cycleParts]

theorem exec_changesOnly_cycleParts {i : Instr} {s t : State} (h : exec i s = .next t) : changesOnly cycleParts s t := by
  refine changesOnly_mono (exec_changesOnly h) fun p hp => mem_cycleParts.2 ⟨?_, ?_⟩
  · rintro rfl
    simp [Instr.key_not_mem_writes] at hp
  · rintro rfl
    simp [Instr.config_not_mem_writes] at hp

/-- No step writes the latch or the configuration (R34, R44). -/
theorem step_changesOnly {s t : State} (h : step s = .next t) : changesOnly cycleParts s t := by
  cases hs : s.status with
  | run =>
    rw [step_of_run hs] at h
    rcases runCycle_cases h with ⟨-, rfl⟩ | ⟨-, -, rfl⟩ | ⟨-, i, u, -, hu, rfl⟩
    · simp
    · simp
    · have hclear : changesOnly cycleParts s s.clearEvents := by simp
      simpa using changesOnly_trans hclear (exec_changesOnly_cycleParts hu)
  | wait x cap =>
    rw [step_of_wait hs] at h
    cases h
    cases cap with
    | none => simp [State.waitCycle, State.idleCycle]
    | some k => exact changesOnly_mono (completeWait_changesOnly s x k) (by simp)
  | fault r =>
    rw [step_of_fault hs] at h
    cases h
    simp
  | halt =>
    rw [step_of_halt hs] at h
    cases h
    simp

/-- Settles O17, from the frames of the step and of each transaction. -/
theorem latchAndConfigurationFrame : Obligations.LatchAndConfigurationFrame := by
  refine ⟨fun s t h => ⟨step_changesOnly h .key (by simp), step_changesOnly h .config (by simp)⟩, fun x s t h => ?_⟩
  cases x with
  | reset => cases h; exact ⟨rfl, fun hne => absurd rfl hne⟩
  | runCycle => exact ⟨step_changesOnly h .config (by simp), fun _ _ => step_changesOnly h .key (by simp)⟩
  | setKey k b => cases h; exact ⟨setKey_changesOnly s k b .config (by simp), fun _ hne => absurd rfl (hne k b)⟩
  | loadProgram bs =>
    cases h; exact ⟨loadProgram_changesOnly s bs .config (by simp), fun _ _ => loadProgram_changesOnly s bs .key (by simp)⟩
  | timerTick =>
    cases h; exact ⟨timerTick_changesOnly s .config (by simp), fun _ _ => timerTick_changesOnly s .key (by simp)⟩
  | shutdown =>
    cases h; exact ⟨shutdown_changesOnly s .config (by simp), fun _ _ => shutdown_changesOnly s .key (by simp)⟩

end Sys2Proof.Machine
end

section
/-! PROOFS. The state after reset (R43). -/

namespace Sys2Proof.Machine

theorem getV_resetWith (c : Config) (r : Nibble) : (State.resetWith c).getV r = 0#8 := Vector.getElem_replicate ..

theorem stack_resetWith (c : Config) (k : Fin 16) : (State.resetWith c).stack[k] = 0#16 := Vector.getElem_replicate ..

theorem keyAt_resetWith (c : Config) (k : Nibble) : (State.resetWith c).keyAt k = false := Vector.getElem_replicate ..

theorem readByte_resetWith_font (c : Config) {a : Nat} (h : a < 80) : (State.resetWith c).readByte a = c.fontRom[a] :=
  dif_pos h

theorem readByte_resetWith_zero (c : Config) {a : Nat} (h : 80 ≤ a) : (State.resetWith c).readByte a = 0#8 :=
  dif_neg (Nat.not_lt.2 h)

theorem resetWith_memoryIntact (c : Config) : (State.resetWith c).memoryIntact :=
  ⟨Memory.wf_nil _, fun _ h => readByte_resetWith_font c h⟩

theorem resetWith_pcBounded (c : Config) : (State.resetWith c).pcBounded := by
  refine ⟨show (0x200#16).toNat ≤ 0x10FE by decide, fun k => ?_, nofun⟩
  rw [stack_resetWith]
  decide

/-- Settles O16: memory lists nothing, and PC and every slot are below their bounds. -/
theorem invariantsHoldAtReset : Obligations.InvariantsHoldAtReset :=
  fun c => ⟨resetWith_memoryIntact c, resetWith_pcBounded c⟩

/-- Settles O18: what `Reset` leaves differs from `State.resetWith` in the count of draws alone. -/
theorem resetValues : Obligations.ResetValues :=
  ⟨fun s => ⟨s.resetPort, rfl, getV_resetWith s.config, rfl, rfl, rfl, stack_resetWith s.config, rfl, rfl,
      Framebuffer.cell_blank, keyAt_resetWith s.config, fun _ h => readByte_resetWith_font s.config h,
      fun _ h => readByte_resetWith_zero s.config h, rfl, rfl, rfl⟩,
    rfl, rfl, rfl, by decide⟩

end Sys2Proof.Machine
end

section
/-! PROOFS. The bound on PC is kept by every step and every transaction (R26, R111). -/

namespace Sys2Proof.Machine

/-- The bound speaks of PC, the stack and whether the core waits: what leaves these alone keeps it. -/
theorem State.pcBounded_of_changesOnly {ps : List Part} {s t : State} (hs : s.pcBounded) (h : changesOnly ps s t)
    (hpc : .pc ∉ ps) (hstack : .stack ∉ ps) (hwait : ∀ x cap, t.status = .wait x cap → ∃ y c, s.status = .wait y c) :
    t.pcBounded := by
  obtain ⟨hp, hk, hw⟩ := hs
  have ep : t.pc = s.pc := h .pc hpc
  have ek : t.stack = s.stack := (h .stack hstack).2
  refine ⟨ep ▸ hp, ek ▸ hk, fun x cap hx => ?_⟩
  obtain ⟨y, c, hy⟩ := hwait x cap hx
  exact ep ▸ hw y c hy

theorem State.pcBounded_of_status_eq {ps : List Part} {s t : State} (hs : s.pcBounded) (h : changesOnly ps s t)
    (hpc : .pc ∉ ps) (hstack : .stack ∉ ps) (hstatus : .status ∉ ps) : t.pcBounded :=
  State.pcBounded_of_changesOnly hs h hpc hstack fun x cap hx => ⟨x, cap, (h .status hstatus).symm.trans hx⟩

theorem endCycle_pcBounded {t : State} (h : t.pcBounded) (b : Byte) : (t.endCycle b).pcBounded :=
  State.pcBounded_of_status_eq (ps := [.dt, .st, .events]) h (by simp) (by simp) (by simp) (by simp)

theorem clearEvents_pcBounded {s : State} (h : s.pcBounded) : s.clearEvents.pcBounded :=
  State.pcBounded_of_status_eq (ps := [.events]) h (by simp) (by simp) (by simp) (by simp)

theorem raiseFatal_pcBounded {s : State} (h : s.pcBounded) (f : Fatal) (w : Option Word) : (s.raiseFatal f w).pcBounded :=
  State.pcBounded_of_changesOnly (ps := [.status]) h (by simp) (by simp) (by simp) (by simp)

/-- From an address a cycle has fetched from, no instruction leads past 0x10FE, which Bnnn reaches (R26, R111). -/
theorem leadsTo_le {i : Instr} {s : State} {p : Word} (h : i.leadsTo s p) (hpc : s.pc.toNat ≤ 0xFFE)
    (hstack : ∀ k : Fin 16, s.stack[k].toNat ≤ 0x1000) : p.toNat ≤ 0x10FE := by
  cases i
  case op00EE =>
    obtain ⟨k, rfl⟩ := h
    exact (hstack k).trans (by decide)
  case op1nnn nnn | op2nnn nnn =>
    have := nnn.isLt
    rw [show p = addrOperand nnn from h, toNat_addrOperand]
    omega
  case opBnnn nnn =>
    have := nnn.isLt
    have := (s.getV 0x0#4).isLt
    rw [show p = s.jumpTarget nnn from h, State.toNat_jumpTarget]
    omega
  case op3xkk | op4xkk | op5xy0 | op9xy0 | opEx9E | opExA1 =>
    obtain ⟨taken, rfl⟩ := h
    rw [State.toNat_skipTarget]
    split <;> omega
  case opFx0A =>
    rw [show p = s.pc from h]
    omega
  all_goals
    rw [show p = s.pc + 2#16 from h, toNat_add_small _ 2 (by decide)]
    omega

theorem exec_pcBounded {i : Instr} {s t : State} (h : exec i s = .next t) (hs : s.pcBounded) (hrun : s.status = .run)
    (hpc : s.pc.toNat ≤ 0xFFE) : t.pcBounded := by
  rcases exec_cases h with hc | ⟨-, f, rfl⟩
  · obtain ⟨-, hstack, -⟩ := hs
    refine ⟨leadsTo_le hc.pc hpc hstack, fun k => ?_, fun x cap hw => ?_⟩
    · rcases hc.slots k with hk | ⟨-, hk⟩
      · exact hk ▸ hstack k
      · rw [hk, toNat_add_small _ 2 (by decide)]
        omega
    · have hne : t.status ≠ s.status := by simp [hw, hrun]
      rcases exec_status_cases h hne with ⟨y, rfl, -⟩ | ⟨⟨r, hr⟩, -⟩
      · exact (show t.pc = s.pc from hc.pc) ▸ hpc
      · exact absurd (hr.symm.trans hw) nofun
  · exact raiseFatal_pcBounded hs f _

/-- The completing cycle goes on from where the wait stands, which a cycle has fetched from (R150). -/
theorem completeWait_pcBounded {s : State} (h : s.pcBounded) {x k : Nibble} {cap : Option Nibble}
    (hw : s.status = .wait x cap) : (s.completeWait x k).pcBounded := by
  obtain ⟨-, hstack, hwait⟩ := h
  have hpc := hwait x cap hw
  have hend : changesOnly [.dt, .st, .events] (((s.clearEvents.setV x (zext8 k)).setPc (s.pc + 2#16)).setStatus .run)
      (s.completeWait x k) := by simp [State.completeWait]
  have ep : (s.completeWait x k).pc = s.pc + 2#16 := hend .pc (by simp)
  have ek : (s.completeWait x k).stack = s.stack := (hend .stack (by simp)).2
  have es : (s.completeWait x k).status = .run := hend .status (by simp)
  refine ⟨?_, ek ▸ hstack, fun y c hy => ?_⟩
  · rw [ep, toNat_add_small _ 2 (by decide)]
    omega
  · rw [es] at hy
    contradiction

theorem runCycle_pcBounded {s t : State} (hs : s.pcBounded) (hrun : s.status = .run) (h : s.runCycle = .next t) :
    t.pcBounded := by
  have hs' := clearEvents_pcBounded hs
  rcases runCycle_cases h with ⟨-, rfl⟩ | ⟨-, -, rfl⟩ | ⟨hpc, i, u, -, hu, rfl⟩
  · exact raiseFatal_pcBounded hs' _ _
  · exact raiseFatal_pcBounded hs' _ _
  · exact endCycle_pcBounded (exec_pcBounded hu hs' hrun (Nat.le_of_succ_le_succ hpc)) _

theorem step_pcBounded {s t : State} (hs : s.pcBounded) (h : step s = .next t) : t.pcBounded := by
  cases hst : s.status with
  | run => exact runCycle_pcBounded hs hst (step_of_run hst ▸ h)
  | wait x cap =>
    cases (step_of_wait hst).symm.trans h
    cases cap with
    | none => exact clearEvents_pcBounded hs
    | some k => exact completeWait_pcBounded hs hst
  | fault r =>
    cases (step_of_fault hst).symm.trans h
    exact clearEvents_pcBounded hs
  | halt =>
    cases (step_of_halt hst).symm.trans h
    exact clearEvents_pcBounded hs

/-- SetKey captures a key for a core that waits already (R158). -/
theorem setKey_waits {s : State} {k : Nibble} {b : Bool} {x : Nibble} {cap : Option Nibble}
    (h : (s.setKey k b).status = .wait x cap) : ∃ y c, s.status = .wait y c := by
  cases hs : s.status with
  | wait y c => exact ⟨y, c, rfl⟩
  | run | fault | halt => simp [State.setKey, hs] at h

theorem shutdown_not_waits (s : State) (x : Nibble) (cap : Option Nibble) : s.shutdown.status ≠ .wait x cap := by
  cases hs : s.status <;> simp [State.shutdown, hs]

/-- Settles O15: the bound is kept by a step, from an address it could fetch from, and by each other transaction. -/
theorem pcStaysBounded : Obligations.PcStaysBounded := by
  refine ⟨fun s t hs h => step_pcBounded hs h, fun x s t hs h => ?_⟩
  cases x with
  | runCycle => exact step_pcBounded hs h
  | reset => cases h; exact resetWith_pcBounded s.config
  | setKey k b =>
    cases h
    exact State.pcBounded_of_changesOnly hs (setKey_changesOnly s k b) (by simp) (by simp) fun _ _ => setKey_waits
  | loadProgram bs =>
    cases h
    exact State.pcBounded_of_status_eq hs (loadProgram_changesOnly s bs) (by simp) (by simp) (by simp)
  | timerTick =>
    cases h
    exact State.pcBounded_of_status_eq hs (timerTick_changesOnly s) (by simp) (by simp) (by simp)
  | shutdown =>
    cases h
    exact State.pcBounded_of_changesOnly hs (shutdown_changesOnly s) (by simp) (by simp) fun x cap hw =>
      absurd hw (shutdown_not_waits s x cap)

end Sys2Proof.Machine
end

section
/-! PROOFS. What `LoadProgram` writes: exactly the image, or nothing (R66, R181). -/

namespace Sys2Proof.Machine

/-- An image is accepted exactly when it fits between 0x200 and the end of memory (R6, R181). -/
theorem loadResult_ok {bs : List Byte} (h : bs.length ≤ 3584) : loadResult bs = .ok :=
  if_pos (decide_eq_true h)

theorem loadResult_invalid {bs : List Byte} (h : 3584 < bs.length) : loadResult bs = .invalidProgramLength :=
  if_neg (mt of_decide_eq_true (Nat.not_le.2 h))

theorem loadProgram_of_fits {bs : List Byte} (s : State) (h : bs.length ≤ 3584) :
    s.loadProgram bs = s.clearEvents.writeBytes 0x200 bs := by
  simp only [State.loadProgram, loadResult_ok h]

theorem loadProgram_of_too_long {bs : List Byte} (s : State) (h : 3584 < bs.length) : s.loadProgram bs = s.clearEvents := by
  simp only [State.loadProgram, loadResult_invalid h]

/-- The bytes of a run of writes read back in order. -/
theorem State.readByte_writeBytes_add (s : State) (a : Nat) {bs : List Byte} {k : Nat} (h : k < bs.length) :
    (s.writeBytes a bs).readByte (a + k) = bs[k] := by
  simp [State.readByte_writeBytes, h]

theorem memSameOutside_writeBytes (s : State) (a : Nat) (bs : List Byte) :
    memSameOutside a bs.length s (s.writeBytes a bs) := by
  intro b hb
  rw [State.readByte_writeBytes, dif_neg (by omega)]

/-- Settles O20, by whether the image fits: the load is then one run of writes at 0x200, else only the event list is emptied. -/
theorem loadProgramWritesImage : Obligations.LoadProgramWritesImage := by
  intro s bytes
  refine ⟨fun hfits => ⟨congrArg Response.load (loadResult_ok hfits), s.loadProgram bytes, rfl,
      loadProgram_changesOnly s bytes, ?_⟩,
    fun hlong => ⟨congrArg Response.load (loadResult_invalid hlong), s.loadProgram bytes, rfl, ?_⟩⟩
  · rw [loadProgram_of_fits s hfits]
    exact ⟨rfl, fun k hk => s.clearEvents.readByte_writeBytes_add 0x200 hk,
      memSameOutside_writeBytes s.clearEvents 0x200 bytes⟩
  · rw [loadProgram_of_too_long s hlong]
    exact ⟨by simp, rfl⟩

end Sys2Proof.Machine
end

section
/-! PROOFS. The canonical form of memory and the font bytes are kept by every step and every transaction (R49, R52, R53). -/

namespace Sys2Proof.Machine

/-! ### What each operation on memory keeps -/

/-- The invariant speaks of the memory list and the font alone. The list itself must be the same: that it reads the same, as in a
frame, does not say that it is canonical. -/
theorem State.memoryIntact_of_mem_eq {s t : State} (hs : s.memoryIntact) (hm : t.mem = s.mem) (hc : t.config = s.config) :
    t.memoryIntact := by
  obtain ⟨hwf, hfont⟩ := hs
  refine ⟨by rwa [hm, hc], fun a h => ?_⟩
  simpa only [State.readByte_congr hm hc, hc] using hfont a h

/-- A run of writes above the font and inside memory keeps the invariant. -/
theorem writeBytes_memoryIntact {s : State} (hs : s.memoryIntact) {a : Nat} {bs : List Byte} (hfont : 0x50 ≤ a)
    (hrange : a + bs.length ≤ 0x1000) : (s.writeBytes a bs).memoryIntact := by
  obtain ⟨hwf, hbytes⟩ := hs
  refine ⟨Memory.wf_writeBytes bs hwf hrange, fun b hb => ?_⟩
  rw [State.readByte_writeBytes, dif_neg (by omega)]
  exact hbytes b hb

/-- The two checks of a store are what the invariant needs: the range check for the form, the font check for the bytes. -/
theorem memWrite_memoryIntact {s t : State} (hs : s.memoryIntact) {a : Nat} {bs : List Byte} (h : s.memWrite a bs = .ok t) :
    t.memoryIntact := by
  obtain ⟨hempty | ⟨hrange, hfont⟩, rfl⟩ := (s.memWrite_ok_iff ..).1 h
  · rw [List.length_eq_zero_iff.1 hempty]
    exact hs
  · exact writeBytes_memoryIntact hs hfont (by omega)

theorem push_memoryIntact {s t : State} (hs : s.memoryIntact) {a : Word} (h : s.push a = .ok t) : t.memoryIntact := by
  rcases s.push_cases a with ⟨_, he⟩ | ⟨-, he⟩
  · cases he.symm.trans h
    exact hs
  · cases he.symm.trans h

theorem pop_memoryIntact {s t : State} (hs : s.memoryIntact) {a : Word} (h : s.pop = .ok (a, t)) : t.memoryIntact := by
  rcases s.pop_cases with ⟨_, he⟩ | ⟨-, he⟩
  · cases he.symm.trans h
    exact hs
  · cases he.symm.trans h

theorem setRegsFrom_memoryIntact {s : State} (hs : s.memoryIntact) (k : Nat) (bs : List Byte) :
    (s.setRegsFrom k bs).memoryIntact := by
  rw [State.setRegsFrom_eq]
  exact hs

/-! ### The execute stage -/

/-- A fatal error is taken at the state the instruction began in, so only what follows the check is to be shown. -/
theorem orRaise_memoryIntact {α : Type} {i : Instr} {s t : State} {r : Except Fatal α} {k : α → Result} (hs : s.memoryIntact)
    (h : orRaise s i r k = .next t) (hk : ∀ a, r = .ok a → k a = .next t → t.memoryIntact) : t.memoryIntact := by
  rcases orRaise_cases h with ⟨a, ha, hka⟩ | ⟨f, -, rfl⟩
  · exact hk a ha hka
  · exact hs

/-- Only Fx33 and Fx55 write memory, and both by a checked store (R53). -/
theorem exec_memoryIntact {i : Instr} {s t : State} (h : exec i s = .next t) (hs : s.memoryIntact) : t.memoryIntact := by
  cases i
  case opFx33 | opFx55 =>
    refine orRaise_memoryIntact hs h fun u hu ht => ?_
    have hintact := memWrite_memoryIntact hs hu
    cases ht
    exact hintact
  case op00EE =>
    refine orRaise_memoryIntact hs h fun (a, u) hu ht => ?_
    have hintact := pop_memoryIntact hs hu
    cases ht
    exact hintact
  case op2nnn =>
    refine orRaise_memoryIntact hs h fun u hu ht => ?_
    have hintact := push_memoryIntact hs hu
    cases ht
    exact hintact
  case opFx65 =>
    refine orRaise_memoryIntact hs h fun bs _ ht => ?_
    cases ht
    exact setRegsFrom_memoryIntact hs 0 bs
  case opDxyn | opEx9E | opExA1 =>
    refine orRaise_memoryIntact hs h fun _ _ ht => ?_
    cases ht
    exact hs
  all_goals
    cases h
    exact hs

/-! ### Cycles -/

theorem endCycle_memoryIntact {t : State} (h : t.memoryIntact) (b : Byte) : (t.endCycle b).memoryIntact := by
  rw [State.endCycle_eq]
  exact h

/-- The completing cycle of Fx0A ends as every completed cycle does (R150). -/
theorem completeWait_memoryIntact {s : State} (h : s.memoryIntact) (x k : Nibble) : (s.completeWait x k).memoryIntact := by
  have hset : (((s.clearEvents.setV x (zext8 k)).setPc (s.pc + 2#16)).setStatus .run).memoryIntact := h
  have hend := endCycle_memoryIntact hset s.st
  rw [State.endCycle_of_run _ rfl] at hend
  exact hend

theorem runCycle_memoryIntact {s t : State} (hs : s.memoryIntact) (h : s.runCycle = .next t) : t.memoryIntact := by
  rcases runCycle_cases h with ⟨-, rfl⟩ | ⟨-, -, rfl⟩ | ⟨-, i, u, -, hu, rfl⟩
  · exact hs
  · exact hs
  · exact endCycle_memoryIntact (exec_memoryIntact hu hs) _

theorem step_memoryIntact {s t : State} (hs : s.memoryIntact) (h : step s = .next t) : t.memoryIntact := by
  cases hst : s.status with
  | run => exact runCycle_memoryIntact hs (step_of_run hst ▸ h)
  | wait x cap =>
    cases (step_of_wait hst).symm.trans h
    cases cap with
    | none => exact hs
    | some k => exact completeWait_memoryIntact hs x k
  | fault r =>
    cases (step_of_fault hst).symm.trans h
    exact hs
  | halt =>
    cases (step_of_halt hst).symm.trans h
    exact hs

/-! ### The host's transactions -/

@[simp] theorem State.setKey_mem (s : State) (k : Nibble) (b : Bool) : (s.setKey k b).mem = s.mem := by
  unfold State.setKey
  split
  case h_1 => split <;> rfl
  all_goals rfl

@[simp] theorem State.toneEnd_mem (s : State) (b : Byte) : (s.toneEnd b).mem = s.mem := by
  unfold State.toneEnd
  split <;> rfl

@[simp] theorem State.timerTick_mem (s : State) : s.timerTick.mem = s.mem := by
  unfold State.timerTick
  split
  · rfl
  · split <;> simp

@[simp] theorem State.shutdown_mem (s : State) : s.shutdown.mem = s.mem := by
  unfold State.shutdown
  split <;> rfl

/-- An image that fits lies above the font and inside memory (R66). -/
theorem loadProgram_memoryIntact {s : State} (hs : s.memoryIntact) (bs : List Byte) : (s.loadProgram bs).memoryIntact := by
  by_cases hfits : bs.length ≤ 3584
  · rw [loadProgram_of_fits s hfits]
    exact writeBytes_memoryIntact (s := s.clearEvents) hs (by decide) (by omega)
  · rw [loadProgram_of_too_long s (Nat.lt_of_not_le hfits)]
    exact hs

/-- Settles O14: every write to memory is a checked store or a load that fits, and each keeps the invariant. -/
theorem memoryStaysIntact : Obligations.MemoryStaysIntact := by
  refine ⟨fun s t hs h => step_memoryIntact hs h, fun x s t hs h => ?_⟩
  cases x with
  | runCycle => exact step_memoryIntact hs h
  | reset => cases h; exact resetWith_memoryIntact s.config
  | setKey k b =>
    cases h
    exact State.memoryIntact_of_mem_eq hs (State.setKey_mem s k b) (setKey_changesOnly s k b .config (by simp))
  | loadProgram bs => cases h; exact loadProgram_memoryIntact hs bs
  | timerTick =>
    cases h
    exact State.memoryIntact_of_mem_eq hs (State.timerTick_mem s) (timerTick_changesOnly s .config (by simp))
  | shutdown =>
    cases h
    exact State.memoryIntact_of_mem_eq hs (State.shutdown_mem s) (shutdown_changesOnly s .config (by simp))

end Sys2Proof.Machine
end

section
/-! PROOFS. The decoder and the encoder are inverse to each other (R68, R71, R80). -/

namespace Sys2Proof

/-! ### Decode inverts encode -/

/-- Each group's selector and operands read back from the built word. -/
theorem decode_encode (i : Instr) : decode (encode i) = .ok i := by
  cases i
  case op00E0 | op00EE => decide
  case op5xy0 => simp [encode, decode, decodeGroup5]
  case op9xy0 => simp [encode, decode, decodeGroup9]
  case op8xy0 | op8xy1 | op8xy2 | op8xy3 | op8xy4 | op8xy5 | op8xy6 | op8xy7 | op8xyE => simp [encode, decode, decodeGroup8]
  case opEx9E | opExA1 => simp [encode, decode, decodeGroupE]
  case opFx07 | opFx0A | opFx15 | opFx18 | opFx1E | opFx29 | opFx33 | opFx55 | opFx65 => simp [encode, decode, decodeGroupF]
  -- the groups that the group selector alone decides
  all_goals simp [encode, decode]

/-- Settles O2: every `Instr` is well-formed. -/
theorem decodeInvertsEncode : Obligations.DecodeInvertsEncode :=
  fun i _ => decode_encode i

/-! ### Encode inverts decode -/

/-- What the decoder may answer for a word: an instruction whose word it is, or that word rejected by name. -/
def DecodeAnswer (w : Word) : Except Reject Instr → Prop
  | .ok i    => encode i = w
  | .error e => e = .unknownOpcode w

theorem wordOfNnn_of_fieldG {w : Word} {g : Nibble} (hg : fieldG w = g) : wordOfNnn g (fieldNnn w) = w := by
  rw [← hg, wordOfNnn_fields]

theorem wordOfXkk_of_fieldG {w : Word} {g : Nibble} (hg : fieldG w = g) : wordOfXkk g (fieldX w) (fieldKk w) = w := by
  rw [← hg, wordOfXkk_fields]

theorem wordOfXkk_of_fieldKk {w : Word} {g : Nibble} {kk : Byte} (hg : fieldG w = g) (hk : fieldKk w = kk) :
    wordOfXkk g (fieldX w) kk = w := by
  rw [← hk, wordOfXkk_of_fieldG hg]

theorem wordOfXyn_of_fieldG {w : Word} {g : Nibble} (hg : fieldG w = g) :
    wordOfXyn g (fieldX w) (fieldY w) (fieldN w) = w := by
  rw [← hg, wordOfXyn_fields]

theorem wordOfXyn_of_fieldN {w : Word} {g n : Nibble} (hg : fieldG w = g) (hn : fieldN w = n) :
    wordOfXyn g (fieldX w) (fieldY w) n = w := by
  rw [← hn, wordOfXyn_of_fieldG hg]

theorem decodeGroup0_answer (w : Word) : DecodeAnswer w (decodeGroup0 w) := by
  unfold decodeGroup0
  split
  · next h => exact h.symm
  · split
    · next h => exact h.symm
    · rfl

theorem decodeGroup5_answer {w : Word} (hg : fieldG w = 0x5#4) : DecodeAnswer w (decodeGroup5 w) := by
  unfold decodeGroup5
  split
  · next hn => exact wordOfXyn_of_fieldN hg hn
  · rfl

theorem decodeGroup9_answer {w : Word} (hg : fieldG w = 0x9#4) : DecodeAnswer w (decodeGroup9 w) := by
  unfold decodeGroup9
  split
  · next hn => exact wordOfXyn_of_fieldN hg hn
  · rfl

theorem decodeGroup8_answer {w : Word} (hg : fieldG w = 0x8#4) : DecodeAnswer w (decodeGroup8 w) := by
  unfold decodeGroup8
  split
  case h_10 => rfl
  all_goals next hn => exact wordOfXyn_of_fieldN hg hn

theorem decodeGroupE_answer {w : Word} (hg : fieldG w = 0xE#4) : DecodeAnswer w (decodeGroupE w) := by
  unfold decodeGroupE
  split
  case h_3 => rfl
  all_goals next hk => exact wordOfXkk_of_fieldKk hg hk

theorem decodeGroupF_answer {w : Word} (hg : fieldG w = 0xF#4) : DecodeAnswer w (decodeGroupF w) := by
  unfold decodeGroupF
  split
  case h_10 => rfl
  all_goals next hk => exact wordOfXkk_of_fieldKk hg hk

/-- All that the decoder can answer (R78, R80, R81). The arms of `decode` stand in the order of the groups: `h_1` is group 0x0. -/
theorem decode_answer (w : Word) : DecodeAnswer w (decode w) := by
  unfold decode
  split
  case h_1 => exact decodeGroup0_answer w
  case h_2 | h_3 | h_11 | h_12 => next hg => exact wordOfNnn_of_fieldG hg
  case h_4 | h_5 | h_7 | h_8 | h_13 => next hg => exact wordOfXkk_of_fieldG hg
  case h_6 => next hg => exact decodeGroup5_answer hg
  case h_9 => next hg => exact decodeGroup8_answer hg
  case h_10 => next hg => exact decodeGroup9_answer hg
  case h_14 => next hg => exact wordOfXyn_of_fieldG hg
  case h_15 => next hg => exact decodeGroupE_answer hg
  case h_16 => next hg => exact decodeGroupF_answer hg
  case h_17 => rfl

theorem encode_of_decode_ok {w : Word} {i : Instr} (h : decode w = .ok i) : encode i = w := by
  have ha := decode_answer w
  rwa [h] at ha

theorem eq_unknownOpcode_of_decode_error {w : Word} {e : Reject} (h : decode w = .error e) : e = .unknownOpcode w := by
  have ha := decode_answer w
  rwa [h] at ha

/-- Settles O3, from what the decoder can answer. -/
theorem encodeInvertsDecode : Obligations.EncodeInvertsDecode :=
  fun _ _ h => encode_of_decode_ok h

end Sys2Proof
end

section
/-! PROOFS. The decoder follows the opcode table (R71, R78, R80, R81). -/

namespace Sys2Proof

/-! ### From an instruction to its row -/

/-- Every instruction's word belongs to the instruction's own row. -/
theorem encode_matches_tableRow (i : Instr) : Laws.TableRow.Statement i := by
  cases i
  exacts [Laws.TableRow.op00E0, Laws.TableRow.op00EE, Laws.TableRow.op1nnn _, Laws.TableRow.op2nnn _,
    Laws.TableRow.op3xkk _ _, Laws.TableRow.op4xkk _ _, Laws.TableRow.op5xy0 _ _, Laws.TableRow.op6xkk _ _,
    Laws.TableRow.op7xkk _ _, Laws.TableRow.op8xy0 _ _, Laws.TableRow.op8xy1 _ _, Laws.TableRow.op8xy2 _ _,
    Laws.TableRow.op8xy3 _ _, Laws.TableRow.op8xy4 _ _, Laws.TableRow.op8xy5 _ _, Laws.TableRow.op8xy6 _ _,
    Laws.TableRow.op8xy7 _ _, Laws.TableRow.op8xyE _ _, Laws.TableRow.op9xy0 _ _, Laws.TableRow.opAnnn _,
    Laws.TableRow.opBnnn _, Laws.TableRow.opCxkk _ _, Laws.TableRow.opDxyn _ _ _, Laws.TableRow.opEx9E _,
    Laws.TableRow.opExA1 _, Laws.TableRow.opFx07 _, Laws.TableRow.opFx0A _, Laws.TableRow.opFx15 _,
    Laws.TableRow.opFx18 _, Laws.TableRow.opFx1E _, Laws.TableRow.opFx29 _, Laws.TableRow.opFx33 _,
    Laws.TableRow.opFx55 _, Laws.TableRow.opFx65 _]

theorem tableRow_of_decode_ok {w : Word} {i : Instr} (h : decode w = .ok i) :
    ∃ row ∈ opcodeTable, row.mnemonic = mnemonicOf i ∧ rowMatches row w = true :=
  encode_of_decode_ok h ▸ encode_matches_tableRow i

/-! ### From a row to its instruction

A field that a row's mask covers is the field of the row's pattern in every word the row matches. -/

section
variable {m : String} {p k w : Word}

theorem and_mask_of_rowMatches (h : rowMatches ⟨m, p, k⟩ w = true) : w &&& k = p := beq_iff_eq.1 h

theorem fieldG_of_rowMatches (h : rowMatches ⟨m, p, k⟩ w = true) (hk : fieldG k = BitVec.allOnes 4) : fieldG w = fieldG p := by
  rw [← and_mask_of_rowMatches h, fieldG, fieldG, BitVec.extractLsb'_and, ← fieldG, ← fieldG, hk, BitVec.and_allOnes]

theorem fieldN_of_rowMatches (h : rowMatches ⟨m, p, k⟩ w = true) (hk : fieldN k = BitVec.allOnes 4) : fieldN w = fieldN p := by
  rw [← and_mask_of_rowMatches h, fieldN, fieldN, BitVec.extractLsb'_and, ← fieldN, ← fieldN, hk, BitVec.and_allOnes]

theorem fieldKk_of_rowMatches (h : rowMatches ⟨m, p, k⟩ w = true) (hk : fieldKk k = BitVec.allOnes 8) :
    fieldKk w = fieldKk p := by
  rw [← and_mask_of_rowMatches h, fieldKk, fieldKk, BitVec.extractLsb'_and, ← fieldKk, ← fieldKk, hk, BitVec.and_allOnes]

theorem eq_pattern_of_rowMatches (h : rowMatches ⟨m, p, 0xFFFF#16⟩ w = true) : w = p :=
  (BitVec.and_allOnes (x := w)).symm.trans (and_mask_of_rowMatches h)

end

/-- Every word the row matches is the word of an instruction of the row: the converse of `Laws.TableRow.Statement`. -/
def RowEncodes (row : OpcodeRow) : Prop := ∀ w, rowMatches row w = true → ∃ i, encode i = w ∧ mnemonicOf i = row.mnemonic

/-! A row of each operand form: the constructor applied to the word's own fields encodes the word. -/

section
variable {m : String} {p : Word}

theorem fixedRow_encodes (i : Instr) (he : encode i = p) (hm : mnemonicOf i = m) :
    RowEncodes ⟨m, p, 0xFFFF#16⟩ :=
  fun _ h => ⟨i, he.trans (eq_pattern_of_rowMatches h).symm, hm⟩

theorem nnnRow_encodes (op : Addr12 → Instr)
    (hop : ∀ nnn, encode (op nnn) = wordOfNnn (fieldG p) nnn ∧ mnemonicOf (op nnn) = m) :
    RowEncodes ⟨m, p, 0xF000#16⟩ := fun w h =>
  have ⟨he, hm⟩ := hop (fieldNnn w)
  ⟨_, he.trans (wordOfNnn_of_fieldG (fieldG_of_rowMatches h (by decide))), hm⟩

theorem xkkRow_encodes (op : Nibble → Byte → Instr)
    (hop : ∀ x kk, encode (op x kk) = wordOfXkk (fieldG p) x kk ∧ mnemonicOf (op x kk) = m) :
    RowEncodes ⟨m, p, 0xF000#16⟩ := fun w h =>
  have ⟨he, hm⟩ := hop (fieldX w) (fieldKk w)
  ⟨_, he.trans (wordOfXkk_of_fieldG (fieldG_of_rowMatches h (by decide))), hm⟩

theorem xynRow_encodes (op : Nibble → Nibble → Nibble → Instr)
    (hop : ∀ x y n, encode (op x y n) = wordOfXyn (fieldG p) x y n ∧ mnemonicOf (op x y n) = m) :
    RowEncodes ⟨m, p, 0xF000#16⟩ := fun w h =>
  have ⟨he, hm⟩ := hop (fieldX w) (fieldY w) (fieldN w)
  ⟨_, he.trans (wordOfXyn_of_fieldG (fieldG_of_rowMatches h (by decide))), hm⟩

theorem xyRow_encodes (op : Nibble → Nibble → Instr)
    (hop : ∀ x y, encode (op x y) = wordOfXyn (fieldG p) x y (fieldN p) ∧ mnemonicOf (op x y) = m) :
    RowEncodes ⟨m, p, 0xF00F#16⟩ := fun w h =>
  have ⟨he, hm⟩ := hop (fieldX w) (fieldY w)
  ⟨_, he.trans (wordOfXyn_of_fieldN (fieldG_of_rowMatches h (by decide)) (fieldN_of_rowMatches h (by decide))), hm⟩

theorem xRow_encodes (op : Nibble → Instr)
    (hop : ∀ x, encode (op x) = wordOfXkk (fieldG p) x (fieldKk p) ∧ mnemonicOf (op x) = m) :
    RowEncodes ⟨m, p, 0xF0FF#16⟩ := fun w h =>
  have ⟨he, hm⟩ := hop (fieldX w)
  ⟨_, he.trans (wordOfXkk_of_fieldKk (fieldG_of_rowMatches h (by decide)) (fieldKk_of_rowMatches h (by decide))), hm⟩

end

theorem opcodeTable_rows_encode : ∀ row ∈ opcodeTable, RowEncodes row := by
  simp only [opcodeTable, List.cons_append, List.nil_append, List.forall_mem_cons, List.not_mem_nil, false_implies,
    implies_true, and_true]
  exact ⟨
    fixedRow_encodes .op00E0 rfl rfl, fixedRow_encodes .op00EE rfl rfl, nnnRow_encodes .op1nnn fun _ => ⟨rfl, rfl⟩,
    nnnRow_encodes .op2nnn fun _ => ⟨rfl, rfl⟩, xkkRow_encodes .op3xkk fun _ _ => ⟨rfl, rfl⟩,
    xkkRow_encodes .op4xkk fun _ _ => ⟨rfl, rfl⟩, xyRow_encodes .op5xy0 fun _ _ => ⟨rfl, rfl⟩,
    xkkRow_encodes .op6xkk fun _ _ => ⟨rfl, rfl⟩, xkkRow_encodes .op7xkk fun _ _ => ⟨rfl, rfl⟩,
    xyRow_encodes .op8xy0 fun _ _ => ⟨rfl, rfl⟩, xyRow_encodes .op8xy1 fun _ _ => ⟨rfl, rfl⟩,
    xyRow_encodes .op8xy2 fun _ _ => ⟨rfl, rfl⟩, xyRow_encodes .op8xy3 fun _ _ => ⟨rfl, rfl⟩,
    xyRow_encodes .op8xy4 fun _ _ => ⟨rfl, rfl⟩, xyRow_encodes .op8xy5 fun _ _ => ⟨rfl, rfl⟩,
    xyRow_encodes .op8xy6 fun _ _ => ⟨rfl, rfl⟩, xyRow_encodes .op8xy7 fun _ _ => ⟨rfl, rfl⟩,
    xyRow_encodes .op8xyE fun _ _ => ⟨rfl, rfl⟩, xyRow_encodes .op9xy0 fun _ _ => ⟨rfl, rfl⟩,
    nnnRow_encodes .opAnnn fun _ => ⟨rfl, rfl⟩, nnnRow_encodes .opBnnn fun _ => ⟨rfl, rfl⟩,
    xkkRow_encodes .opCxkk fun _ _ => ⟨rfl, rfl⟩, xynRow_encodes .opDxyn fun _ _ _ => ⟨rfl, rfl⟩,
    xRow_encodes .opEx9E fun _ => ⟨rfl, rfl⟩, xRow_encodes .opExA1 fun _ => ⟨rfl, rfl⟩,
    xRow_encodes .opFx07 fun _ => ⟨rfl, rfl⟩, xRow_encodes .opFx0A fun _ => ⟨rfl, rfl⟩,
    xRow_encodes .opFx15 fun _ => ⟨rfl, rfl⟩, xRow_encodes .opFx18 fun _ => ⟨rfl, rfl⟩,
    xRow_encodes .opFx1E fun _ => ⟨rfl, rfl⟩, xRow_encodes .opFx29 fun _ => ⟨rfl, rfl⟩,
    xRow_encodes .opFx33 fun _ => ⟨rfl, rfl⟩, xRow_encodes .opFx55 fun _ => ⟨rfl, rfl⟩,
    xRow_encodes .opFx65 fun _ => ⟨rfl, rfl⟩⟩

theorem decode_of_rowMatches {row : OpcodeRow} {w : Word} (hrow : row ∈ opcodeTable) (h : rowMatches row w = true) :
    ∃ i, decode w = .ok i ∧ mnemonicOf i = row.mnemonic := by
  obtain ⟨i, rfl, hi⟩ := opcodeTable_rows_encode row hrow w h
  exact ⟨i, decode_encode i, hi⟩

/-! ### Rejection, and no word of two rows -/

theorem opcodeTable_mnemonics_nodup : (opcodeTable.map (·.mnemonic)).Nodup := by decide

/-- A word that no row matches is rejected by name, and no other word is (R78). -/
theorem no_rowMatches_iff (w : Word) :
    (∀ row ∈ opcodeTable, rowMatches row w = false) ↔ decode w = .error (.unknownOpcode w) := by
  constructor
  · intro hnone
    cases hd : decode w with
    | error e => rw [eq_unknownOpcode_of_decode_error hd]
    | ok i =>
      obtain ⟨row, hrow, -, hmatch⟩ := tableRow_of_decode_ok hd
      exact absurd hmatch (by simp [hnone row hrow])
  · intro hd row hrow
    by_contra hmatch
    obtain ⟨i, hi, -⟩ := decode_of_rowMatches hrow (eq_true_of_ne_false hmatch)
    cases hd.symm.trans hi

/-- Two rows that match one word name its one instruction, and no two rows share a mnemonic. -/
theorem rowMatches_unique {w : Word} {p q : OpcodeRow} (hp : p ∈ opcodeTable) (hq : q ∈ opcodeTable)
    (hpw : rowMatches p w = true) (hqw : rowMatches q w = true) : p = q := by
  obtain ⟨i, hi, hip⟩ := decode_of_rowMatches hp hpw
  obtain ⟨j, hj, hjq⟩ := decode_of_rowMatches hq hqw
  cases hi.symm.trans hj
  exact List.inj_on_of_nodup_map opcodeTable_mnemonics_nodup hp hq (hip.symm.trans hjq)

/-- Settles O4: from an instruction to its row, from a row to its instruction, and what both say of rejection and of two rows. -/
theorem decoderFollowsOpcodeTable : Obligations.DecoderFollowsOpcodeTable :=
  ⟨fun _ _ h => tableRow_of_decode_ok h, fun _ _ hrow h => decode_of_rowMatches hrow h, no_rowMatches_iff,
    fun _ _ hp _ hq => rowMatches_unique hp hq⟩

end Sys2Proof
end

section
/-! PROOFS. Words written out from the encodings (R71 to R76). -/

namespace Sys2Proof

/-- Settles O1. A written word that decodes is the encoding of its instruction; a written word that does not is taken through
the decoder's groups. -/
theorem writtenWordsDecode : Obligations.WrittenWordsDecode :=
  ⟨decode_encode .op00E0, decode_encode .op00EE, decode_encode (.op2nnn 0x300#12), decode_encode (.op5xy0 0x1#4 0x2#4),
    decode_encode (.op7xkk 0x0#4 0x05#8), decode_encode (.op8xyE 0xF#4 0x1#4), decode_encode (.opAnnn 0x2F0#12),
    decode_encode (.opDxyn 0xB#4 0xC#4 0x5#4), decode_encode (.opExA1 0x5#4), decode_encode (.opFx33 0xA#4),
    rfl, rfl, rfl, rfl, rfl⟩

end Sys2Proof
end

section
/-! PROOFS. Every step from every state answers a next state (R81, R98, R102). -/

namespace Sys2Proof.Machine

/-- A checked operation that raises is a next state too (R98). -/
theorem orRaise_answers_next {α : Type} (s : State) (i : Instr) (r : Except Fatal α) {k : α → Result}
    (hk : ∀ a, ∃ t, k a = .next t) : ∃ t, orRaise s i r k = .next t := by
  cases r with
  | ok a => exact hk a
  | error f => exact ⟨_, rfl⟩

/-- No arm refuses: an execute stage ends in `finish`, which answers, whether or not it went through a check. -/
theorem exec_answers_next (i : Instr) (s : State) : ∃ t, exec i s = .next t := by
  cases i
  case op00EE | op2nnn | opDxyn | opEx9E | opExA1 | opFx33 | opFx55 | opFx65 =>
    exact orRaise_answers_next _ _ _ fun _ => ⟨_, rfl⟩
  all_goals exact ⟨_, rfl⟩

theorem runCycle_answers_next (s : State) : ∃ t, s.runCycle = .next t := by
  by_cases hpc : s.pc.toNat + 1 ≤ 0xFFF
  · cases hd : decode s.nextWord with
    | error e => exact ⟨_, runCycle_unknown hpc hd⟩
    | ok i =>
      obtain ⟨t, ht⟩ := exec_answers_next i s.clearEvents
      exact ⟨t.endCycle s.st, by rw [runCycle_exec hpc hd, ht]; rfl⟩
  · exact ⟨_, runCycle_fetchFault (Nat.lt_of_not_le hpc)⟩

theorem step_answers_next (s : State) : ∃ t, step s = .next t := by
  cases hs : s.status with
  | run => exact step_of_run hs ▸ runCycle_answers_next s
  | wait x cap => exact ⟨_, step_of_wait hs⟩
  | fault r => exact ⟨_, step_of_fault hs⟩
  | halt => exact ⟨_, step_of_halt hs⟩

/-- Settles O11, by STATUS and, in RUN, by fetch, decode and execute. -/
theorem everyStepAnswersNext : Obligations.EveryStepAnswersNext :=
  step_answers_next

end Sys2Proof.Machine
end

section
/-! SUPPORT. A cycle that runs an instruction: its step, its end, the value it returns, and what an execute stage that left
RUN has done (R88 to R101). -/

namespace Sys2Proof.Machine

/-! ### The step -/

theorem step_of_runsNext {s : State} {i : Instr} (h : s.runsNext i) :
    step s = endCycleResult s.st (exec i s.clearEvents) := by
  obtain ⟨hrun, hpc, hd⟩ := h
  rw [step_of_run hrun, runCycle_exec hpc hd]

theorem step_of_exec {s u : State} {i : Instr} (h : s.runsNext i) (hu : exec i s.clearEvents = .next u) :
    step s = .next (u.endCycle s.st) := by
  rw [step_of_runsNext h, hu]
  rfl

/-- A step that runs an instruction answers the end of the cycle at the state the instruction leaves. -/
theorem exists_exec_of_step {s t : State} {i : Instr} (h : s.runsNext i) (ht : step s = .next t) :
    ∃ u, exec i s.clearEvents = .next u ∧ t = u.endCycle s.st := by
  obtain ⟨u, hu⟩ := exec_answers_next i s.clearEvents
  cases (step_of_exec h hu).symm.trans ht
  exact ⟨u, hu, rfl⟩

/-- Whether the next cycle runs an instruction depends on STATUS, PC and memory alone. -/
theorem runsNext_of_changesOnly {ps : List Part} {s t : State} {i : Instr} (h : s.runsNext i) (hst : changesOnly ps s t)
    (hpc : .pc ∉ ps) (hmem : .mem ∉ ps) (hstatus : .status ∉ ps) : t.runsNext i := by
  obtain ⟨hrun, hin, hd⟩ := h
  have ep : t.pc = s.pc := hst .pc hpc
  have em : ∀ a, t.readByte a = s.readByte a := hst .mem hmem
  have ew : t.nextWord = s.nextWord := by simp only [State.nextWord, ep, em]
  exact ⟨(hst .status hstatus).trans hrun, ep ▸ hin, ew ▸ hd⟩

/-! ### The end of the cycle, and the value it returns -/

theorem endCycle_changesOnly (t : State) (b : Byte) : changesOnly [.dt, .st, .events] t (t.endCycle b) := by simp

@[simp] theorem State.endCycle_status (t : State) (b : Byte) : (t.endCycle b).status = t.status :=
  endCycle_changesOnly t b .status (by simp)

@[simp] theorem State.toneEnd_dt (s : State) (b : Byte) : (s.toneEnd b).dt = s.dt := by
  unfold State.toneEnd
  split <;> rfl

@[simp] theorem State.toneEnd_st (s : State) (b : Byte) : (s.toneEnd b).st = s.st := by
  unfold State.toneEnd
  split <;> rfl

/-- A completed cycle ends with one tick of each timer in `PerCycle` and with none in `External` (R153). -/
theorem toNat_endCycle_timers {t : State} (b : Byte) (h : t.status = .run) :
    (t.endCycle b).dt.toNat = t.dt.toNat - (if t.config.timerMode = .perCycle then 1 else 0) ∧
      (t.endCycle b).st.toNat = t.st.toNat - (if t.config.timerMode = .perCycle then 1 else 0) := by
  rw [State.endCycle_of_run b h, State.toneEnd_dt, State.toneEnd_st, State.cycleTick_eq]
  split
  · exact ⟨toNat_tickTimer t.dt, toNat_tickTimer t.st⟩
  · exact ⟨rfl, rfl⟩

theorem response_runCycle_of_status {t : State} {q : Status} (h : t.status = q) :
    response .runCycle t = .cycle (cycleResult q) := by
  rw [← h]
  rfl

/-! ### An execute stage and STATUS -/

/-- An execute stage keeps STATUS, begins a key wait, or takes a fatal error; in the last two it changes nothing else
(R98, R148). -/
theorem exec_keeps_waits_or_raises {i : Instr} {s t : State} (h : exec i s = .next t) :
    t.status = s.status ∨ (∃ x, i = .opFx0A x ∧ t = s.setStatus (.wait x none)) ∨
      ∃ f, t = s.raiseFatal f (some (encode i)) := by
  rcases exec_cases h with hc | ⟨-, hf⟩
  · by_cases hw : .status ∈ i.writes
    · obtain ⟨x, rfl⟩ := Instr.status_mem_writes hw
      cases h
      exact .inr (.inl ⟨x, rfl, rfl⟩)
    · exact .inl (hc.frame .status hw)
  · exact .inr (.inr hf)

end Sys2Proof.Machine
end

section
/-! PROOFS. A step in RUN, and the fatal errors of fetch, decode and execute (R88 to R98). -/

namespace Sys2Proof.Machine

/-- Settles O7: a cycle faults in fetch, in decode or in execute, and each takes the error at the state the cycle began in. -/
theorem faultingCycleCommitsNothing : Obligations.FaultingCycleCommitsNothing := by
  intro s t r hrun h hr
  suffices ht : ∃ f, t = s.clearEvents.raiseFatal f (if s.pc.toNat + 1 ≤ 0xFFF then some s.nextWord else none) by
    obtain ⟨f, rfl⟩ := ht
    cases hr
    exact ⟨rfl, rfl, rfl, rfl⟩
  rw [step_of_run hrun] at h
  rcases runCycle_cases h with ⟨hpc, rfl⟩ | ⟨hpc, -, rfl⟩ | ⟨hpc, i, u, hd, hu, rfl⟩
  · exact ⟨_, by rw [if_neg (Nat.not_le.2 hpc)]⟩
  · exact ⟨_, by rw [if_pos hpc]⟩
  · rw [State.endCycle_status] at hr
    rw [State.endCycle_of_not_run _ (by simp [hr]), if_pos hpc, ← encode_of_decode_ok hd]
    rcases exec_keeps_waits_or_raises hu with hkeep | ⟨x, -, rfl⟩ | hf
    · cases hr.symm.trans (hkeep.trans hrun)
    · cases hr
    · exact hf

/-- Settles O5: when STATUS is still RUN the cycle ends with its tick and its tone end, else where the instruction left it. -/
theorem stepRunsDecodedInstruction : Obligations.StepRunsDecodedInstruction := by
  refine fun s i hs => ⟨fun t ht hrun => ?_, fun t ht hne => ?_⟩
  · rw [step_of_exec hs ht, State.endCycle_of_run _ hrun, State.cycleTick_eq]
  · rw [step_of_exec hs ht, State.endCycle_of_not_run _ hne]

/-- Settles O6: the fetch out of range, and the word no row matches, which the decoder rejects. -/
theorem fetchAndDecodeFaults : Obligations.FetchAndDecodeFaults := by
  refine fun s hrun => ⟨fun hpc => ?_, fun hpc hnone => ?_⟩
  · rw [step_of_run hrun, runCycle_fetchFault hpc]
    rfl
  · rw [step_of_run hrun, runCycle_unknown hpc ((no_rowMatches_iff _).1 hnone)]
    rfl

end Sys2Proof.Machine
end

section
/-! PROOFS. FAULT, HALT and the stalled key wait (R100, R149, R170). -/

namespace Sys2Proof.Machine

/-- Settles O9, by STATUS. -/
theorem idleCyclesChangeNothing : Obligations.IdleCyclesChangeNothing :=
  fun _ => ⟨fun _ h => ⟨step_of_fault h, response_runCycle_of_status h⟩,
    fun h => ⟨step_of_halt h, response_runCycle_of_status h⟩,
    fun _ h => ⟨step_of_wait h, response_runCycle_of_status h⟩⟩

/-- `SetKey` changes STATUS only to capture a key for a core that waits with nothing captured (R158). -/
theorem setKey_status_of_not_wait {s : State} (h : ∀ x, s.status ≠ .wait x none) (k : Nibble) (b : Bool) :
    (s.setKey k b).status = s.status := by
  unfold State.setKey
  split
  case h_1 x hw => exact absurd hw (h x)
  all_goals rfl

/-- What no transaction but `Reset` leaves: FAULT with its record, and HALT (R100, R168, R170). -/
theorem transact_status_of_stopped {x : Transaction} {s t : State} (hx : x ≠ .reset) (h : transact x s = .next t)
    (hs : s.status = .halt ∨ ∃ r, s.status = .fault r) : t.status = s.status := by
  cases x with
  | reset => exact absurd rfl hx
  | runCycle =>
    rcases hs with hs | ⟨r, hs⟩
    · cases (step_of_halt hs).symm.trans h
      rfl
    · cases (step_of_fault hs).symm.trans h
      rfl
  | setKey k b =>
    cases h
    refine setKey_status_of_not_wait (fun y hy => ?_) k b
    simp [hy] at hs
  | loadProgram bs => cases h; exact loadProgram_changesOnly s bs .status (by simp)
  | timerTick => cases h; exact timerTick_changesOnly s .status (by simp)
  | shutdown =>
    cases h
    rcases hs with hs | ⟨r, hs⟩ <;> simp [State.shutdown, hs]

/-- Settles O10: in FAULT and in HALT every transaction but Reset keeps STATUS. -/
theorem onlyResetLeavesFaultOrHalt : Obligations.OnlyResetLeavesFaultOrHalt :=
  fun _ _ _ hx h => ⟨fun r hs => (transact_status_of_stopped hx h (.inr ⟨r, hs⟩)).trans hs,
    fun hs => (transact_status_of_stopped hx h (.inl hs)).trans hs⟩

end Sys2Proof.Machine
end

section
/-! PROOFS. Runs of transactions: their observations, and the jump to itself (R87, R102). -/

namespace Sys2Proof.Machine

theorem transact_answers_next (x : Transaction) (s : State) : ∃ t, transact x s = .next t := by
  cases x with
  | runCycle => exact step_answers_next s
  | reset | setKey | loadProgram | timerTick | shutdown => exact ⟨_, rfl⟩

/-- Every run answers, with one event list for each transaction (R102). -/
theorem runTransactions_answers (xs : List Transaction) (s : State) :
    ∃ o, runTransactions xs s = .next o ∧ o.eventLists.length = xs.length := by
  induction xs generalizing s with
  | nil => exact ⟨_, rfl, rfl⟩
  | cons x xs ih =>
    obtain ⟨t, ht⟩ := transact_answers_next x s
    obtain ⟨o, ho, hlen⟩ := ih t
    exact ⟨_, runTransactions_cons ht ho, congrArg (· + 1) hlen⟩

/-- A run goes on as the run of its remaining transactions, from the state the earlier ones left (R102). -/
theorem runTransactions_append {xs ys : List Transaction} {s : State} {o p : Observation}
    (ho : runTransactions xs s = .next o) (hp : runTransactions ys o.state = .next p) :
    runTransactions (xs ++ ys) s = .next ⟨p.state, o.eventLists ++ p.eventLists⟩ := by
  induction xs generalizing s o with
  | nil => cases ho; exact hp
  | cons x xs ih =>
    obtain ⟨t, ht⟩ := transact_answers_next x s
    obtain ⟨q, hq, -⟩ := runTransactions_answers xs t
    cases (runTransactions_cons ht hq).symm.trans ho
    exact runTransactions_cons ht (ih hq hp)

/-- Settles O12: the laws of a run, each from one transaction at a time. -/
theorem runObservesEveryEventList : Obligations.RunObservesEveryEventList := by
  refine ⟨runTransactions_nil, fun x s => ?one, fun xs ys s => ?append, fun xs s => ?reset⟩
  case one =>
    obtain ⟨t, ht⟩ := transact_answers_next x s
    exact ⟨t, ht, runTransactions_cons ht (runTransactions_nil t)⟩
  case append =>
    obtain ⟨o, ho, hlen⟩ := runTransactions_answers xs s
    obtain ⟨p, hp, -⟩ := runTransactions_answers ys o.state
    exact ⟨o, ho, hlen, p, hp, runTransactions_append ho hp⟩
  case reset =>
    obtain ⟨o, ho, -⟩ := runTransactions_answers xs s.resetPort
    exact ⟨o, ho, runTransactions_cons (x := .reset) rfl ho⟩

/-- A 1nnn that stands at nnn leads to where it stands, so its cycle changes the timers and the events alone (R105). -/
theorem step_jumpToItself {s : State} {nnn : Addr12} (h : s.runsNext (.op1nnn nnn)) (hpc : s.pc.toNat = nnn.toNat) :
    ∃ t, step s = .next t ∧ changesOnly [.dt, .st, .events] s t := by
  have htarget : addrOperand nnn = s.clearEvents.pc := BitVec.eq_of_toNat_eq ((toNat_addrOperand nnn).trans hpc.symm)
  have hstays : s.clearEvents.setPc (addrOperand nnn) = s.clearEvents := by
    rw [htarget]
    rfl
  have hexec : exec (.op1nnn nnn) s.clearEvents = .next s.clearEvents := congrArg Host.Outcome.next hstays
  exact ⟨_, step_of_exec h hexec, by simp⟩

/-- Settles O13, by induction on the number of cycles: each leaves a state that stands at the same jump. -/
theorem jumpToItselfRunsForever : Obligations.JumpToItselfRunsForever := by
  intro k
  induction k with
  | zero => exact fun s nnn h _ => ⟨_, rfl, h.1, changesOnly_refl _ s⟩
  | succ k ih =>
    intro s nnn h hpc
    obtain ⟨t, ht, hst⟩ := step_jumpToItself h hpc
    have hpc' : t.pc.toNat = nnn.toNat := (congrArg BitVec.toNat (hst .pc (by simp))).trans hpc
    obtain ⟨o, ho, hrun, hto⟩ := ih t nnn (runsNext_of_changesOnly h hst (by simp) (by simp) (by simp)) hpc'
    exact ⟨_, runTransactions_cons (x := .runCycle) ht ho, hrun, changesOnly_trans hst hto⟩

end Sys2Proof.Machine
end

section
/-! PROOFS. The ticks of a cycle (R96, R144, R145, R153). -/

namespace Sys2Proof.Machine

/-- The delay timer before the tick: what Fx15 wrote, else what it was (R144). -/
theorem exec_dt {i : Instr} {s t : State} (h : exec i s = .next t) :
    ((∀ x, i ≠ .opFx15 x) → t.dt = s.dt) ∧ ∀ x, i = .opFx15 x → t.dt = s.getV x := by
  refine ⟨fun hne => ?_, ?_⟩
  · by_contra hdt
    obtain ⟨x, hx⟩ := Instr.dt_mem_writes (mem_writes_of_not_same (p := .dt) h nofun hdt)
    exact hne x hx
  · rintro x rfl
    cases h
    rfl

/-- The sound timer before the tick: what Fx18 wrote, else what it was (R145). -/
theorem exec_st {i : Instr} {s t : State} (h : exec i s = .next t) :
    ((∀ x, i ≠ .opFx18 x) → t.st = s.st) ∧ ∀ x, i = .opFx18 x → t.st = s.getV x := by
  refine ⟨fun hne => ?_, ?_⟩
  · by_contra hst
    obtain ⟨x, hx⟩ := Instr.st_mem_writes (mem_writes_of_not_same (p := .st) h nofun hst)
    exact hne x hx
  · rintro x rfl
    cases h
    rfl

/-- Settles O25: a completed cycle ticks what the execute stage left; one that does not complete began a key wait or faulted,
and ends there. -/
theorem completedCycleTicksOnce : Obligations.CompletedCycleTicksOnce := by
  intro s t i hs ht
  obtain ⟨u, hu, rfl⟩ := exists_exec_of_step hs ht
  rw [State.endCycle_status]
  refine ⟨fun hrun => ⟨response_runCycle_of_status ((State.endCycle_status u _).trans hrun), ?_⟩, fun hne => ?_⟩
  · rintro k rfl
    have hconfig : u.config = s.config := exec_changesOnly_cycleParts hu .config (by simp)
    obtain ⟨hdt, hdt15⟩ := exec_dt hu
    obtain ⟨hst, hst18⟩ := exec_st hu
    obtain ⟨htickdt, htickst⟩ := toNat_endCycle_timers s.st hrun
    rw [htickdt, htickst, hconfig]
    exact ⟨fun hi => by rw [hdt hi]; rfl, fun x hi => by rw [hdt15 x hi]; rfl, fun hi => by rw [hst hi]; rfl,
      fun x hi => by rw [hst18 x hi]; rfl⟩
  · rw [State.endCycle_of_not_run _ hne]
    rcases exec_keeps_waits_or_raises hu with hkeep | ⟨x, hi, rfl⟩ | ⟨f, rfl⟩
    · exact absurd (hkeep.trans hs.1) hne
    · exact ⟨rfl, rfl, .inl ⟨x, hi, rfl⟩⟩
    · exact ⟨rfl, rfl, .inr ⟨_, rfl, rfl⟩⟩

end Sys2Proof.Machine
end

section
/-! PROOFS. Jumps, calls, returns and the register skips (spec/41_control_flow.md R104 to R111). -/

namespace Sys2Proof.Machine

/-! ### Jumps -/

/-- Settles O32: the 12-bit operand extends to PC with its value kept. -/
theorem jumpSetsPc : Obligations.JumpSetsPc :=
  fun s nnn => ⟨s.setPc (addrOperand nnn), rfl, toNat_addrOperand nnn, by simp⟩

/-- Settles O33: the sum of a 12-bit and an 8-bit number fits PC, so it is not reduced. -/
theorem jumpPlusV0SetsPc : Obligations.JumpPlusV0SetsPc :=
  fun s nnn => ⟨s.setPc (s.jumpTarget nnn), rfl, s.toNat_jumpTarget nnn, by simp⟩

/-! ### Skips -/

/-- A skip goes on by 4 when taken and by 2 when not, and writes PC alone (R25). -/
theorem skipIf_advances (taken : Bool) (s : State) :
    ∃ t, skipIf taken s = .next t ∧ pcAdvanced (if taken = true then 4 else 2) s t ∧ changesOnly [.pc] s t :=
  ⟨_, skipIf_eq taken s, s.toNat_skipTarget taken, by simp⟩

theorem skipIf_beq_advances (a b : Byte) (s : State) :
    ∃ t, skipIf (a == b) s = .next t ∧ pcAdvanced (if a = b then 4 else 2) s t ∧ changesOnly [.pc] s t := by
  simpa only [beq_iff_eq] using skipIf_advances (a == b) s

theorem skipIf_bne_advances (a b : Byte) (s : State) :
    ∃ t, skipIf (a != b) s = .next t ∧ pcAdvanced (if a = b then 2 else 4) s t ∧ changesOnly [.pc] s t := by
  simpa only [bne_iff_ne, ne_eq, ite_not] using skipIf_advances (a != b) s

/-- Settles O37: the two skips compare Vx with the immediate. -/
theorem immediateSkips : Obligations.ImmediateSkips :=
  fun s x kk => ⟨skipIf_beq_advances (s.getV x) kk s, skipIf_bne_advances (s.getV x) kk s⟩

/-- Settles O38: the two skips compare Vx with Vy. -/
theorem registerSkips : Obligations.RegisterSkips :=
  fun s x y => ⟨skipIf_beq_advances (s.getV x) (s.getV y) s, skipIf_bne_advances (s.getV x) (s.getV y) s⟩

/-! ### Calls and returns -/

/-- A call at depth `k` fills slot `k` with PC + 2, deepens the stack by one and jumps (R106). -/
theorem exec_op2nnn_of_sp {s : State} {k : Fin 16} (h : s.sp = k.castSucc) (nnn : Addr12) :
    exec (.op2nnn nnn) s =
      .next ({ s with stack := s.stack.set k (s.pc + 2#16), sp := k.succ }.setPc (addrOperand nnn)) := by
  have hk : s.sp.val = k.val := congrArg Fin.val h
  have hpush : s.push (s.pc + 2#16) = .ok { s with stack := s.stack.set k (s.pc + 2#16), sp := k.succ } := by
    rcases s.push_cases (s.pc + 2#16) with ⟨_, he⟩ | ⟨hfull, -⟩
    · simp only [he, hk, Fin.succ]
    · omega
  show orRaise _ _ (s.push (s.pc + 2#16)) _ = _
  rw [hpush, orRaise_ok, finish_true]

/-- A return at depth `k + 1` leads to the address in slot `k`, and leaves the slots as they are (R104). -/
theorem exec_op00EE_of_sp {s : State} {k : Fin 16} (h : s.sp = k.succ) :
    exec .op00EE s = .next ({ s with sp := k.castSucc }.setPc s.stack[k]) := by
  have hk : s.sp.val - 1 = k.val := by simp [h]
  have hpop : s.pop = .ok (s.stack[k], { s with sp := k.castSucc }) := by
    rcases s.pop_cases with ⟨_, he⟩ | ⟨hempty, -⟩
    · simp only [he, hk]
      rfl
    · simp [h] at hempty
  show orRaise _ _ s.pop _ = _
  rw [hpop, orRaise_ok, finish_true]

/-- A call on a full stack (R160). -/
theorem exec_op2nnn_overflow {s : State} (h : s.sp.val = 16) (nnn : Addr12) :
    exec (.op2nnn nnn) s = .next (s.raiseFatal ⟨.stackOverflow, none⟩ (some (encode (.op2nnn nnn)))) := by
  rcases s.push_cases (s.pc + 2#16) with ⟨hlt, -⟩ | ⟨-, he⟩
  · omega
  · show orRaise _ _ (s.push (s.pc + 2#16)) _ = _
    rw [he, orRaise_error]

/-- A return on an empty stack (R161). -/
theorem exec_op00EE_underflow {s : State} (h : s.sp.val = 0) :
    exec .op00EE s = .next (s.raiseFatal ⟨.stackUnderflow, none⟩ (some (encode .op00EE))) := by
  rcases s.pop_cases with ⟨hpos, -⟩ | ⟨-, he⟩
  · omega
  · show orRaise _ _ s.pop _ = _
    rw [he, orRaise_error]

/-- Settles O34: below 16 entries the first free slot takes PC + 2; at 16 the push overflows. -/
theorem callPushesReturnAddress : Obligations.CallPushesReturnAddress := by
  refine fun s nnn => ⟨fun hsp => ?_, fun hfull => exec_op2nnn_overflow hfull nnn⟩
  refine ⟨_, exec_op2nnn_of_sp (k := ⟨s.sp.val, hsp⟩) rfl nnn, toNat_addrOperand nnn, rfl, fun j hj => ?_, fun j hj => ?_,
    by simp⟩
  · simp [hj, BitVec.toNat_add]
  · simp [hj.symm]

/-- Settles O35: with an entry on the stack the topmost slot is read; with none the pop underflows. -/
theorem returnPopsAddress : Obligations.ReturnPopsAddress :=
  fun _ => ⟨fun _ hsp => ⟨_, exec_op00EE_of_sp (Fin.ext hsp), rfl, rfl, rfl, by simp⟩, exec_op00EE_underflow⟩

/-- Settles O36: the return reads the slot the call has filled, which is above every older entry. -/
theorem callThenReturnContinues : Obligations.CallThenReturnContinues := by
  intro s nnn hsp
  obtain ⟨t, ht, -, htsp, hslot, hother, hcall⟩ := (callPushesReturnAddress s nnn).1 hsp
  obtain ⟨u, hu, hpc, husp, hstack, hreturn⟩ := (returnPopsAddress t).1 ⟨s.sp.val, hsp⟩ htsp
  have hnext : pcAdvanced 2 s u := by
    rw [pcAdvanced, hpc]
    exact hslot _ rfl
  exact ⟨t, ht, u, hu, hnext, Fin.ext husp, fun k hk => hstack ▸ hother k hk.ne, changesOnly_trans hcall hreturn⟩

end Sys2Proof.Machine
end

section
/-! PROOFS. Register loads, logic, arithmetic and the random byte (spec/42_register_alu.md R113 to R125). -/

namespace Sys2Proof.Machine

/-! ### One destination register -/

/-- The end of an execute stage that has written the register file alone (R94, R95). -/
theorem advance_frame {s u : State} (hpc : u.pc = s.pc) (h : changesOnly [.v, .pc] s u) :
    pcAdvanced 2 s (u.setPc (u.pc + 2#16)) ∧ changesOnly [.v, .pc] s (u.setPc (u.pc + 2#16)) :=
  ⟨(pcAdvanced_two_iff _ _).2 (by simp [hpc]), by simpa using h⟩

/-- An instruction whose one effect is to write `b` to Vx. -/
theorem finish_setV (s : State) (x : Nibble) (b : Byte) :
    ∃ t, finish false (s.setV x b) = .next t ∧ (∀ r, t.getV r = if r = x then b else s.getV r) ∧ pcAdvanced 2 s t ∧
      changesOnly [.v, .pc] s t :=
  ⟨_, finish_false _, fun r => s.getV_setV x r b, advance_frame rfl (by simp)⟩

/-- The same, with the destination apart from the other registers. -/
theorem finish_setV_dest (s : State) (x : Nibble) (b : Byte) :
    ∃ t, finish false (s.setV x b) = .next t ∧ t.getV x = b ∧ (∀ r, r ≠ x → t.getV r = s.getV r) ∧ pcAdvanced 2 s t ∧
      changesOnly [.v, .pc] s t := by
  obtain ⟨t, ht, hregs, hframe⟩ := finish_setV s x b
  exact ⟨t, ht, by simp [hregs], fun r hr => by simp [hregs, hr], hframe⟩

/-- An operation on bytes that works on each bit by itself, its result written to Vx (R117 to R119). -/
theorem finish_bitwise (s : State) (x y : Nibble) {op : Byte → Byte → Byte} {bit : Bool → Bool → Bool}
    (hop : ∀ a b n, (op a b).getLsbD n = bit (a.getLsbD n) (b.getLsbD n)) :
    ∃ t, finish false (s.setV x (op (s.getV x) (s.getV y))) = .next t ∧
      (∀ n, (t.getV x).getLsbD n = bit ((s.getV x).getLsbD n) ((s.getV y).getLsbD n)) ∧
      (∀ r, r ≠ x → t.getV r = s.getV r) ∧ pcAdvanced 2 s t ∧ changesOnly [.v, .pc] s t := by
  obtain ⟨t, ht, hx, hrest⟩ := finish_setV_dest s x (op (s.getV x) (s.getV y))
  exact ⟨t, ht, fun n => by rw [hx, hop], hrest⟩

/-- Settles O39: both write one register, with the immediate or with Vy. -/
theorem loadImmediateAndMove : Obligations.LoadImmediateAndMove :=
  fun s x y kk => ⟨finish_setV s x kk, finish_setV s x (s.getV y)⟩

/-- Settles O40: addition of bytes is addition modulo 256, and Vx is the one register written. -/
theorem addImmediateWraps : Obligations.AddImmediateWraps := by
  intro s x kk
  obtain ⟨t, ht, hx, hrest⟩ := finish_setV_dest s x (s.getV x + kk)
  exact ⟨t, ht, by rw [hx, BitVec.toNat_add], hrest⟩

/-- Settles O41: the three operations are bitwise, and Vx is the one register written. -/
theorem logicBitByBit : Obligations.LogicBitByBit :=
  fun s x y => ⟨finish_bitwise s x y fun _ _ _ => BitVec.getLsbD_or, finish_bitwise s x y fun _ _ _ => BitVec.getLsbD_and,
    finish_bitwise s x y fun _ _ _ => BitVec.getLsbD_xor⟩

/-- Settles O45: the masked draw is written to Vx in the state that has taken the draw; a mask of 0 leaves no bit. -/
theorem randomByteIsMaskedDraw : Obligations.RandomByteIsMaskedDraw := by
  intro s x kk
  have hx : (s.takeDraw.2.setV x (s.takeDraw.1 &&& kk)).getV x = Config.randomByte s.draws &&& kk := by simp
  refine ⟨_, finish_false _, hx, fun hkk => ?_, rfl, fun r hr => State.getV_setV_ne _ _ hr,
    (pcAdvanced_two_iff _ _).2 rfl, by simp⟩
  rw [State.getV_setPc, hx, hkk, BitVec.and_zero]

/-! ### A result and a flag -/

/-- 8xy4's order of writes (R113): VF holds the flag, and Vx the result unless it is VF. -/
theorem finish_setResultThenFlag (s : State) (x : Nibble) (res : Byte) (f : Bool) :
    ∃ t, finish false (s.setResultThenFlag x res f) = .next t ∧ (x ≠ 0xF#4 → t.getV x = res) ∧
      t.getV 0xF#4 = flagByte f ∧ (∀ r, r ≠ x → r ≠ 0xF#4 → t.getV r = s.getV r) ∧ pcAdvanced 2 s t ∧
      changesOnly [.v, .pc] s t := by
  have hread := fun q => s.getV_setResultThenFlag x q res f
  refine ⟨_, finish_false _, fun hx => ?_, ?_, fun r hrx hrF => ?_,
    advance_frame rfl (by simp [State.setResultThenFlag])⟩
  · rw [State.getV_setPc, hread, if_neg hx, if_pos rfl]
  · rw [State.getV_setPc, hread, if_pos rfl]
  · rw [State.getV_setPc, hread, if_neg hrF, if_neg hrx]

/-- The order of writes of the other four (R113): Vx holds the result, and VF the flag unless it is Vx. -/
theorem finish_setFlagThenResult (s : State) (x : Nibble) (res : Byte) (f : Bool) :
    ∃ t, finish false (s.setFlagThenResult x res f) = .next t ∧ t.getV x = res ∧
      (x ≠ 0xF#4 → t.getV 0xF#4 = flagByte f) ∧ (∀ r, r ≠ x → r ≠ 0xF#4 → t.getV r = s.getV r) ∧ pcAdvanced 2 s t ∧
      changesOnly [.v, .pc] s t := by
  have hread := fun q => s.getV_setFlagThenResult x q res f
  refine ⟨_, finish_false _, ?_, fun hx => ?_, fun r hrx hrF => ?_,
    advance_frame rfl (by simp [State.setFlagThenResult])⟩
  · rw [State.getV_setPc, hread, if_pos rfl]
  · rw [State.getV_setPc, hread, if_neg hx.symm, if_pos rfl]
  · rw [State.getV_setPc, hread, if_neg hrx, if_neg hrF]

theorem flagByte_decide (p : Prop) [Decidable p] : flagByte (decide p) = if p then 1#8 else 0#8 := by
  simp [flagByte]

theorem toNat_flagByte (b : Bool) : (flagByte b).toNat = b.toNat := by cases b <;> rfl

theorem toNat_shiftedOutLow (a : Byte) : (shiftedOutLow a).toNat = a.toNat % 2 := by
  rw [shiftedOutLow, BitVec.getLsbD, Nat.toNat_testBit, pow_zero, Nat.div_one]

/-- Bit 7 is all that a byte holds at and above it. -/
theorem toNat_shiftedOutHigh (a : Byte) : (shiftedOutHigh a).toNat = a.toNat / 128 := by
  have ha : a.toNat < 256 := a.isLt
  rw [shiftedOutHigh, BitVec.getLsbD, Nat.toNat_testBit]
  omega

/-- A difference and its not-borrow flag, of any two bytes. -/
theorem finish_difference (s : State) (x : Nibble) (a b : Byte) :
    ∃ t, finish false (s.setFlagThenResult x (a - b) (notBorrow a b)) = .next t ∧
      (t.getV x).toNat = (a.toNat + 256 - b.toNat) % 256 ∧
      (x ≠ 0xF#4 → t.getV 0xF#4 = if b.toNat < a.toNat then 1#8 else 0#8) ∧
      (∀ r, r ≠ x → r ≠ 0xF#4 → t.getV r = s.getV r) ∧ pcAdvanced 2 s t ∧ changesOnly [.v, .pc] s t := by
  obtain ⟨t, ht, hx, hF, hrest⟩ := finish_setFlagThenResult s x (a - b) (notBorrow a b)
  have ha : a.toNat < 256 := a.isLt
  have hb : b.toNat < 256 := b.isLt
  refine ⟨t, ht, ?_, fun hne => ?_, hrest⟩
  · rw [hx, BitVec.toNat_sub]
    omega
  · rw [hF hne, notBorrow, flagByte_decide]

/-- Settles O42: the flag is written last, so VF holds the carry even for x = 0xF. -/
theorem addWithCarry : Obligations.AddWithCarry := by
  intro s x y
  obtain ⟨t, ht, hx, hF, hrest⟩ :=
    finish_setResultThenFlag s x (s.getV x + s.getV y) (carryOut (s.getV x) (s.getV y))
  refine ⟨t, ht, fun hne => ?_, ?_, hrest⟩
  · rw [hx hne, BitVec.toNat_add]
  · rw [hF, carryOut, flagByte_decide]

/-- Settles O43: 8xy7 is 8xy5 with the operands exchanged. -/
theorem subtractNotBorrow : Obligations.SubtractNotBorrow :=
  fun s x y => ⟨finish_difference s x (s.getV x) (s.getV y), finish_difference s x (s.getV y) (s.getV x)⟩

/-- Settles O44: a shift by one is division or multiplication by 2, and the bit it loses is the flag. -/
theorem shiftsByOne : Obligations.ShiftsByOne := by
  intro s x y
  constructor
  · obtain ⟨t, ht, hx, hF, hrest⟩ := finish_setFlagThenResult s x (s.getV x >>> 1) (shiftedOutLow (s.getV x))
    refine ⟨t, ht, ?_, fun hne => ?_, hrest⟩
    · rw [hx, BitVec.toNat_ushiftRight, Nat.shiftRight_eq_div_pow, pow_one]
    · rw [hF hne, toNat_flagByte, toNat_shiftedOutLow]
  · obtain ⟨t, ht, hx, hF, hrest⟩ := finish_setFlagThenResult s x (s.getV x <<< 1) (shiftedOutHigh (s.getV x))
    refine ⟨t, ht, ?_, fun hne => ?_, hrest⟩
    · rw [hx, BitVec.toNat_shiftLeft, Nat.shiftLeft_eq, pow_one]
    · rw [hF hne, toNat_flagByte, toNat_shiftedOutHigh]

end Sys2Proof.Machine
end

section
/-! SUPPORT. Checked stores and loads at I: how each completes, and how each takes its fatal errors (R10, R49, R52, R53). -/

namespace Sys2Proof.Machine

/-! ### The checks of a store that fail -/

theorem State.memWrite_range_error (s : State) {a : Nat} {bs : List Byte} (h0 : 0 < bs.length)
    (h : 0xFFF < a + bs.length - 1) : s.memWrite a bs = .error ⟨.addressOutOfRange, some (max a 0x1000)⟩ := by
  simp only [State.memWrite, storeFault_range h0 h]

theorem State.memWrite_font_error (s : State) {a : Nat} {bs : List Byte} (h0 : 0 < bs.length) (hlen : bs.length ≤ 16)
    (h : a < 0x50) : s.memWrite a bs = .error ⟨.fontWrite, some a⟩ := by
  simp only [State.memWrite, storeFault_font h0 hlen h]

/-! ### The data stored -/

/-- V0 … V(n−1) stand in the list at their own numbers. -/
theorem State.getElem_firstRegs (s : State) {n : Nat} (k : Nibble) (h : k.toNat < (s.firstRegs n).length) :
    (s.firstRegs n)[k.toNat] = s.getV k := by
  simp [State.firstRegs]

@[simp] theorem length_bcdDigits (b : Byte) : (bcdDigits b).length = 3 := rfl

/-- Each of the three digits fits a byte, so its number is not reduced. -/
theorem toNat_bcdDigits (b : Byte) :
    (bcdDigits b)[0].toNat = b.toNat / 100 ∧ (bcdDigits b)[1].toNat = b.toNat / 10 % 10 ∧
      (bcdDigits b)[2].toNat = b.toNat % 10 := by
  have hb : b.toNat < 256 := b.isLt
  simp only [bcdDigits, List.getElem_cons_zero, List.getElem_cons_succ, BitVec.toNat_ofNat]
  omega

/-! ### An instruction that is one checked store, or one checked load into the registers -/

/-- A store that passes both checks writes its bytes at I and nothing else but PC. -/
theorem store_completes (s : State) (i : Instr) {bs : List Byte}
    (h : bs.length = 0 ∨ (s.dataAddr + bs.length - 1 ≤ 0xFFF ∧ 0x50 ≤ s.dataAddr)) :
    ∃ t, orRaise s i (s.memWrite s.dataAddr bs) (finish false) = .next t ∧
      (∀ (k : Nat) (hk : k < bs.length), t.readByte (s.dataAddr + k) = bs[k]) ∧
      memSameOutside s.dataAddr bs.length s t ∧ pcAdvanced 2 s t ∧ changesOnly [.mem, .pc] s t := by
  rw [(s.memWrite_ok_iff _ s.dataAddr bs).2 ⟨h, rfl⟩, orRaise_ok]
  exact ⟨_, finish_false _, fun k hk => s.readByte_writeBytes_add s.dataAddr hk,
    memSameOutside_writeBytes s s.dataAddr bs, (pcAdvanced_two_iff _ _).2 rfl, by simp⟩

theorem store_out_of_range (s : State) (i : Instr) {bs : List Byte} (k : State → Result) (h0 : 0 < bs.length)
    (h : 0xFFF < s.dataAddr + bs.length - 1) :
    orRaise s i (s.memWrite s.dataAddr bs) k =
      .next (s.raiseFatal ⟨.addressOutOfRange, some (max s.dataAddr 0x1000)⟩ (some (encode i))) := by
  rw [s.memWrite_range_error h0 h, orRaise_error]

theorem store_into_font (s : State) (i : Instr) {bs : List Byte} (k : State → Result) (h0 : 0 < bs.length)
    (hlen : bs.length ≤ 16) (h : s.dataAddr < 0x50) :
    orRaise s i (s.memWrite s.dataAddr bs) k =
      .next (s.raiseFatal ⟨.fontWrite, some s.dataAddr⟩ (some (encode i))) := by
  rw [s.memWrite_font_error h0 hlen h, orRaise_error]

/-- A load that passes the range check fills V0, V1, … from I and changes nothing else but PC. -/
theorem load_completes (s : State) (i : Instr) {n : Nat} (hn : n ≤ 16) (h : n = 0 ∨ s.dataAddr + n - 1 ≤ 0xFFF) :
    ∃ t, orRaise s i (s.memRead s.dataAddr n) (fun bs => finish false (s.setRegsFrom 0 bs)) = .next t ∧
      (∀ q : Nibble, t.getV q = if q.toNat < n then s.readByte (s.dataAddr + q.toNat) else s.getV q) ∧
      pcAdvanced 2 s t ∧ changesOnly [.v, .pc] s t := by
  rw [(s.memRead_ok_iff s.dataAddr n _).2 ⟨h, rfl⟩, orRaise_ok]
  have hpc : (s.setRegsFrom 0 (s.readBytes s.dataAddr n)).pc = s.pc := by rw [State.setRegsFrom_eq]
  refine ⟨_, finish_false _, fun q => ?_, advance_frame hpc (by simp)⟩
  rw [State.getV_setPc, State.getV_setRegsFrom _ s 0 (by simpa using hn)]
  simp [State.getElem_readBytes]

theorem load_out_of_range (s : State) (i : Instr) {n : Nat} (k : List Byte → Result) (h0 : 0 < n)
    (h : 0xFFF < s.dataAddr + n - 1) :
    orRaise s i (s.memRead s.dataAddr n) k =
      .next (s.raiseFatal ⟨.addressOutOfRange, some (max s.dataAddr 0x1000)⟩ (some (encode i))) := by
  rw [State.memRead_error h0 h, orRaise_error]

end Sys2Proof.Machine
end

section
/-! PROOFS. The index register and the memory transfers (spec/43_index_memory.md R126 to R131). -/

namespace Sys2Proof.Machine

/-! ### The index register -/

/-- An instruction whose one effect is to write `a` to I. -/
theorem finish_setI (s : State) {a : Word} {n : Nat} (h : a.toNat = n) :
    ∃ t, finish false (s.setI a) = .next t ∧ t.i.toNat = n ∧ pcAdvanced 2 s t ∧ changesOnly [.i, .pc] s t :=
  ⟨_, finish_false _, h, (pcAdvanced_two_iff _ _).2 rfl, by simp⟩

/-- Settles O49: the three instructions write I alone, and differ in the value. -/
theorem indexWrites : Obligations.IndexWrites :=
  fun s x nnn => ⟨finish_setI s (toNat_addrOperand nnn),
    finish_setI s (by rw [BitVec.toNat_add, toNat_zext16]), finish_setI s (toNat_glyphAddr (s.getV x))⟩

/-! ### Stores -/

/-- Settles O50: Fx33 is a checked store of the three digits. -/
theorem bcdStore : Obligations.BcdStore := by
  refine fun s x => ⟨fun hrange hfont => ?_, fun h => store_out_of_range s (.opFx33 x) _ (by simp) h,
    fun h => store_into_font s (.opFx33 x) _ (by simp) (by simp) h⟩
  obtain ⟨t, ht, hbytes, hrest⟩ := store_completes s (.opFx33 x) (bs := bcdDigits (s.getV x)) (.inr ⟨hrange, hfont⟩)
  have hbyte {k d : Nat} (hk : k < (bcdDigits (s.getV x)).length) (hd : (bcdDigits (s.getV x))[k].toNat = d) :
      (t.readByte (s.dataAddr + k)).toNat = d := by rw [hbytes k hk, hd]
  obtain ⟨hundreds, tens, ones⟩ := toNat_bcdDigits (s.getV x)
  exact ⟨t, ht, hbyte _ hundreds, hbyte _ tens, hbyte _ ones, hrest⟩

/-- Settles O51: Fx55 is a checked store of the first `x` registers. -/
theorem registerStore : Obligations.RegisterStore := by
  intro s x
  have hx : x.toNat < 16 := x.isLt
  have hlen : (s.firstRegs x.toNat).length = x.toNat := s.length_firstRegs x.toNat
  refine ⟨fun h => ?_, fun h0 h => ?_, fun h0 h => ?_⟩
  · obtain ⟨t, ht, hbytes, hrest⟩ := store_completes s (.opFx55 x) (bs := s.firstRegs x.toNat)
      (by rw [hlen]; exact h.imp_left BitVec.toNat_inj.2)
    rw [hlen] at hrest
    exact ⟨t, ht, fun k hk => by rw [hbytes k.toNat (by rwa [hlen]), State.getElem_firstRegs], hrest⟩
  · exact store_out_of_range s (.opFx55 x) _ (by rw [hlen]; exact BitVec.toNat_pos_of_ne_zero h0) (by rwa [hlen])
  · exact store_into_font s (.opFx55 x) _ (by rw [hlen]; exact BitVec.toNat_pos_of_ne_zero h0) (by omega) h

/-! ### Loads -/

/-- Settles O52: Fx65 is a checked load of `x` bytes into the first registers. -/
theorem registerLoad : Obligations.RegisterLoad := fun s x =>
  ⟨fun h => load_completes s (.opFx65 x) (Nat.le_of_lt x.isLt) (h.imp_left BitVec.toNat_inj.2),
    fun h0 h => load_out_of_range s (.opFx65 x) _ (BitVec.toNat_pos_of_ne_zero h0) h⟩

/-- Settles O53: a store that did not fault was in range, so the load at the same I is, and it reads the bytes stored. -/
theorem storeThenLoadRestoresRegisters : Obligations.StoreThenLoadRestoresRegisters := by
  intro s t u x _ ht hunf htu
  have hok : x = 0#4 ∨ (s.dataAddr + x.toNat - 1 ≤ 0xFFF ∧ 0x50 ≤ s.dataAddr) := by
    rcases orRaise_cases ht with ⟨_, hw, -⟩ | ⟨f, -, rfl⟩
    · obtain ⟨hchecks, -⟩ := (s.memWrite_ok_iff ..).1 hw
      rw [State.length_firstRegs] at hchecks
      exact hchecks.imp_left BitVec.toNat_inj.1
    · exact absurd rfl (hunf _)
  obtain ⟨t', ht', hbytes, -, -, hframe⟩ := (registerStore s x).1 hok
  cases ht'.symm.trans ht
  have haddr : u.dataAddr = s.dataAddr :=
    congrArg BitVec.toNat ((htu .i (by simp)).trans (hframe .i (by simp)))
  obtain ⟨w, hw, hregs, -⟩ := (registerLoad u x).1 (haddr ▸ hok.imp_right And.left)
  refine ⟨w, hw, fun k => ?_⟩
  rw [hregs, haddr]
  split
  · next hk => exact (htu .mem (by simp) _).trans (hbytes k hk)
  · rfl

end Sys2Proof.Machine
end

section
/-! SUPPORT. What Dxyn does, said once in the terms of Safety.lean: the state it leaves when its sprite is in range, its cells as
`spriteOn` and `spriteBox` name them, and what its blit makes of the framebuffer (R135 to R141). -/

namespace Sys2Proof.Machine

/-- The cells of the sprite Dxyn draws at `s`, in the order R135 visits them. -/
def State.spriteCellsAt (s : State) (x y n : Nibble) : List SpriteCell :=
  spriteCells (s.getV x) (s.getV y) 0 (s.readBytes s.dataAddr n.toNat)

/-- The blit of that sprite. -/
def State.spriteBlit (s : State) (x y n : Nibble) : Blit := blit s.config.notifyMode s.fb (s.spriteCellsAt x y n)

/-- The state Dxyn leaves when its range check passes. -/
def State.drawSprite (s : State) (x y n : Nibble) : State :=
  (((s.setFb (s.spriteBlit x y n).fb).setV 0xF#4 (flagByte (s.spriteBlit x y n).hit)).emit
    ((s.spriteBlit x y n).notes ++ [.present])).setPc (s.pc + 2#16)

variable (s : State) (x y n : Nibble)

theorem exec_opDxyn_of_inRange {s : State} {n : Nibble} (h : spriteInRange s n) :
    exec (.opDxyn x y n) s = .next (s.drawSprite x y n) := by
  show orRaise _ _ (s.memRead s.dataAddr n.toNat) _ = _
  rw [(s.memRead_ok_iff s.dataAddr n.toNat _).2 ⟨h, rfl⟩, orRaise_ok]
  rfl

/-! ### The state Dxyn leaves -/

@[simp] theorem State.drawSprite_fb : (s.drawSprite x y n).fb = (s.spriteBlit x y n).fb := rfl

@[simp] theorem State.drawSprite_events :
    (s.drawSprite x y n).events = s.events ++ (s.spriteBlit x y n).notes ++ [.present] := (List.append_assoc ..).symm

theorem State.getV_drawSprite (r : Nibble) :
    (s.drawSprite x y n).getV r = if r = 0xF#4 then flagByte (s.spriteBlit x y n).hit else s.getV r :=
  State.getV_setV _ _ r _

theorem State.getV_drawSprite_flag : (s.drawSprite x y n).getV 0xF#4 = flagByte (s.spriteBlit x y n).hit := by
  rw [State.getV_drawSprite, if_pos rfl]

theorem pcAdvanced_drawSprite : pcAdvanced 2 s (s.drawSprite x y n) := (pcAdvanced_two_iff _ _).2 rfl

theorem changesOnly_drawSprite : changesOnly [.v, .fb, .pc, .events] s (s.drawSprite x y n) := by simp [State.drawSprite]

/-! ### The cells of the sprite -/

/-- A sprite has at most 15 rows, so its cells are pairwise distinct (R140). -/
theorem State.spriteCellsAt_nodup : ((s.spriteCellsAt x y n).map SpriteCell.place).Nodup := by
  have hn : n.toNat < 16 := n.isLt
  refine spriteCells_nodup _ _ _ 0 ?_
  rw [State.length_readBytes]
  omega

/-- The cells on which a 1 is drawn are those of `spriteOn`. -/
theorem drawsOn_spriteCellsAt (px : Fin 64) (py : Fin 32) :
    drawsOn (s.spriteCellsAt x y n) px py ↔ spriteOn s x y n px py := by
  constructor
  · rintro ⟨d, hd, rfl, rfl, hbit⟩
    obtain ⟨k, hk, c, hc, rfl⟩ := (mem_spriteCells _ _ _ 0 d).1 hd
    rw [State.getElem_readBytes] at hbit
    rw [State.length_readBytes] at hk
    exact ⟨k, c, hk, hc, rfl, by simp [pixelY], hbit⟩
  · rintro ⟨k, c, hk, hc, hx, hy, hbit⟩
    have hk' : k < (s.readBytes s.dataAddr n.toNat).length := by rwa [State.length_readBytes]
    refine ⟨_, (mem_spriteCells _ _ _ 0 _).2 ⟨k, hk', c, hc, rfl⟩, Fin.ext hx.symm, Fin.ext ?_, ?_⟩
    · rw [hy, Nat.zero_add]
      rfl
    · rw [State.getElem_readBytes]
      exact hbit

/-- The rows of a sprite in memory, one list of cells for each. -/
theorem spriteCells_readBytes (ox oy : Byte) (n : Nat) : ∀ a r : Nat,
    spriteCells ox oy r (s.readBytes a n) = (List.range n).flatMap fun k => rowCells ox oy (r + k) (s.readByte (a + k)) := by
  induction n with
  | zero => intro a r; rfl
  | succ n ih =>
    intro a r
    rw [State.readBytes, spriteCells, ih, List.range_succ_eq_map, List.flatMap_cons, List.flatMap_map]
    simp only [Nat.add_zero, Nat.succ_eq_add_one, Nat.add_assoc, Nat.add_comm 1]

/-- A cell as `spriteBox` lists it. -/
def SpriteCell.boxEntry (c : SpriteCell) : Fin 64 × Fin 32 × Bool := (c.x, c.y, c.bit)

/-- The cells, in their order, are those of `spriteBox`. -/
theorem spriteBox_eq_map : spriteBox s x y n = (s.spriteCellsAt x y n).map SpriteCell.boxEntry := by
  rw [State.spriteCellsAt, spriteCells_readBytes, List.map_flatMap, spriteBox]
  refine congrArg (List.flatMap · _) (funext fun k => ?_)
  rw [rowCells, List.map_map, Nat.zero_add]
  rfl

/-! ### The blit -/

theorem cell_spriteBlit_of_on {s : State} {x y n : Nibble} {px : Fin 64} {py : Fin 32} (h : spriteOn s x y n px py) :
    Framebuffer.cell (s.spriteBlit x y n).fb px py = !Framebuffer.cell s.fb px py :=
  (foldl_blit_cell _ _ _ (s.spriteCellsAt_nodup x y n) px py).1 ((drawsOn_spriteCellsAt ..).2 h)

theorem cell_spriteBlit_of_not_on {s : State} {x y n : Nibble} {px : Fin 64} {py : Fin 32}
    (h : ¬ spriteOn s x y n px py) : Framebuffer.cell (s.spriteBlit x y n).fb px py = Framebuffer.cell s.fb px py :=
  (foldl_blit_cell _ _ _ (s.spriteCellsAt_nodup x y n) px py).2 (mt (drawsOn_spriteCellsAt ..).1 h)

/-- A collision: a 1 was drawn on a cell that was on (R139). -/
theorem hit_spriteBlit_iff :
    (s.spriteBlit x y n).hit = true ↔ ∃ px py, spriteOn s x y n px py ∧ Framebuffer.cell s.fb px py = true := by
  refine (foldl_blit_hit _ _ _ (s.spriteCellsAt_nodup x y n)).trans ?_
  simp only [← drawsOn_spriteCellsAt]
  constructor
  · rintro (h | ⟨c, hc, hbit, hcell⟩)
    · cases h
    · exact ⟨c.x, c.y, ⟨c, hc, rfl, rfl, hbit⟩, hcell⟩
  · rintro ⟨_, _, ⟨c, hc, rfl, rfl, hbit⟩, hcell⟩
    exact .inr ⟨c, hc, hbit, hcell⟩

/-- The notifications, in the order of `spriteBox`: every cell in `Touched`, the cells with a 1 in `OnChange` (R141). -/
theorem notes_spriteBlit : (s.spriteBlit x y n).notes =
    ((spriteBox s x y n).filter fun c => s.config.notifyMode == .touched || c.2.2).map
      fun c => .setPixel c.1 c.2.1 (Framebuffer.cell (s.spriteBlit x y n).fb c.1 c.2.1) := by
  rw [spriteBox_eq_map, List.filter_map, List.map_map]
  exact foldl_blit_notes _ _ _ (s.spriteCellsAt_nodup x y n)

/-- VF is 1 after a draw exactly when there was a collision (R139). -/
theorem State.drawSprite_flag_iff : (s.drawSprite x y n).getV 0xF#4 = 1#8 ↔
    ∃ px py, spriteOn s x y n px py ∧ Framebuffer.cell s.fb px py = true := by
  rw [State.getV_drawSprite_flag, flagByte_eq_one, hit_spriteBlit_iff]

/-! ### Drawing again -/

/-- A draw leaves I, so the sprite is still in range. -/
theorem spriteInRange_drawSprite {s : State} {n : Nibble} (h : spriteInRange s n) :
    spriteInRange (s.drawSprite x y n) n := h

/-- A draw leaves the sprite's bytes and I, and every register but VF, so the same sprite is drawn again. -/
theorem spriteOn_drawSprite {x y : Nibble} (hx : x ≠ 0xF#4) (hy : y ≠ 0xF#4) (px : Fin 64) (py : Fin 32) :
    spriteOn (s.drawSprite x y n) x y n px py ↔ spriteOn s x y n px py := by
  simp only [spriteOn, State.getV_drawSprite, if_neg hx, if_neg hy]
  rfl

end Sys2Proof.Machine
end

section
/-! PROOFS. The display: 00E0 and Dxyn (spec/44_display.md R134 to R142). -/

namespace Sys2Proof.Machine

/-- Settles O54: a blank framebuffer and one `Clear`, then the PC advance. -/
theorem clearScreen : Obligations.ClearScreen := fun s =>
  ⟨_, finish_false _, Framebuffer.cell_blank, rfl, (pcAdvanced_two_iff _ _).2 rfl, by simp⟩

/-- Settles O55: the sprite's cells are distinct, so each is turned over once, and a collision is a cell that was on before. -/
theorem drawXorsSprite : Obligations.DrawXorsSprite := by
  intro s x y n hrange
  refine ⟨_, exec_opDxyn_of_inRange x y hrange, fun _ _ => cell_spriteBlit_of_on, fun _ _ => cell_spriteBlit_of_not_on,
    (s.drawSprite_flag_iff x y n).2, fun hoff => ?_, fun r hr => ?_, pcAdvanced_drawSprite s x y n,
    changesOnly_drawSprite s x y n⟩
  · rw [State.getV_drawSprite_flag, flagByte_eq_zero, Bool.eq_false_iff, Ne, hit_spriteBlit_iff]
    rintro ⟨px, py, hspr, hcell⟩
    exact Bool.false_ne_true ((hoff px py hspr).symm.trans hcell)
  · rw [State.getV_drawSprite, if_neg hr]

/-- A sprite of no rows leaves the framebuffer, hits nothing and notifies of nothing (R140). -/
theorem State.drawSprite_zero (s : State) (x y : Nibble) :
    s.drawSprite x y 0#4 = ((s.setV 0xF#4 0#8).emit [.present]).setPc (s.pc + 2#16) := rfl

/-- Settles O56: the range check is that of a load at I, and a sprite of no rows passes it. -/
theorem drawFaultAndEmptyDraw : Obligations.DrawFaultAndEmptyDraw := by
  refine fun s x y n => ⟨fun h0 h => load_out_of_range s (.opDxyn x y n) _ (BitVec.toNat_pos_of_ne_zero h0) h, ?_⟩
  have hexec : exec (.opDxyn x y 0#4) s = .next (s.drawSprite x y 0#4) := exec_opDxyn_of_inRange x y (.inl rfl)
  rw [State.drawSprite_zero] at hexec
  exact ⟨_, hexec, fun r => s.getV_setV 0xF#4 r 0#8, rfl, (pcAdvanced_two_iff _ _).2 rfl, by simp⟩

/-- Settles O57: the notifications of the blit, filtered by the mode. -/
theorem drawNotifications : Obligations.DrawNotifications := by
  intro s t x y n hrange ht
  cases (exec_opDxyn_of_inRange x y hrange).symm.trans ht
  refine ⟨fun hmode => ?_, fun hmode => ?_⟩
  · rw [State.drawSprite_events, notes_spriteBlit, hmode]
    rfl
  · rw [State.drawSprite_events, notes_spriteBlit, hmode]
    simp

/-- Settles O58: the second draw turns the same cells over again, and finds on exactly those the first found off. -/
theorem drawTwiceRestores : Obligations.DrawTwiceRestores := by
  intro s x y n hx hy hrange
  have hsame := fun px py => spriteOn_drawSprite s n hx hy px py
  refine ⟨_, exec_opDxyn_of_inRange x y hrange, _, exec_opDxyn_of_inRange x y (spriteInRange_drawSprite x y hrange), ?_,
    s.drawSprite_flag_iff x y n, ?_⟩
  · refine Framebuffer.ext_cell fun px py => ?_
    by_cases hon : spriteOn s x y n px py
    · rw [State.drawSprite_fb, cell_spriteBlit_of_on ((hsame px py).2 hon), State.drawSprite_fb, cell_spriteBlit_of_on hon,
        Bool.not_not]
    · rw [State.drawSprite_fb, cell_spriteBlit_of_not_on (mt (hsame px py).1 hon), State.drawSprite_fb,
        cell_spriteBlit_of_not_on hon]
  · rw [State.drawSprite_flag_iff]
    refine exists₂_congr fun px py => ?_
    rw [hsame]
    refine and_congr_right fun hon => ?_
    rw [State.drawSprite_fb, cell_spriteBlit_of_on hon, Bool.not_eq_true']

end Sys2Proof.Machine
end

section
/-! SUPPORT. The tone end: what it appends to a transaction's events, and when a cycle's events hold one (R156). -/

namespace Sys2Proof.Machine

@[simp] theorem State.cycleTick_events (s : State) : s.cycleTick.events = s.events := by
  rw [State.cycleTick_eq]
  split <;> rfl

/-- The events of a transaction's end: those before it, and one `ToneEnd` when ST has gone to 0. -/
theorem State.toneEnd_events (s : State) (b : Byte) :
    (s.toneEnd b).events = s.events ++ if b ≠ 0#8 ∧ s.st = 0#8 then [.toneEnd] else [] := by
  unfold State.toneEnd
  split
  · rfl
  · exact (List.append_nil _).symm

/-- The events of a transaction that began with ST = `b` and left `t`: one `ToneEnd`, the last of them, when ST has gone to 0
from another value, and else none (R156). -/
def TonesOnStop (b : Byte) (t : State) : Prop :=
  ∃ es, .toneEnd ∉ es ∧ t.events = es ++ if b ≠ 0#8 ∧ t.st = 0#8 then [.toneEnd] else []

/-- Where ST is as it was, no tone has ended. -/
theorem tonesOnStop_of_silent {b : Byte} {t : State} (hst : t.st = b) (he : .toneEnd ∉ t.events) : TonesOnStop b t :=
  ⟨t.events, he, by simp [hst]⟩

/-- The tone end, after events that hold none. -/
theorem toneEnd_tonesOnStop {t : State} (b : Byte) (he : .toneEnd ∉ t.events) : TonesOnStop b (t.toneEnd b) :=
  ⟨t.events, he, by rw [State.toneEnd_st, State.toneEnd_events]⟩

/-- No execute stage emits `ToneEnd`: 00E0 emits `Clear`, and Dxyn `SetPixel` and `Present` (R134, R141). -/
theorem exec_emits_no_toneEnd {i : Instr} {s t : State} (h : exec i s = .next t) (hs : .toneEnd ∉ s.events) :
    .toneEnd ∉ t.events := by
  by_cases hsame : t.events = s.events
  · rwa [hsame]
  rcases Instr.events_mem_writes (mem_writes_of_not_same (p := .events) h nofun hsame) with rfl | ⟨x, y, n, rfl⟩
  · cases h
    simp [hs]
  · rcases orRaise_cases h with ⟨rows, hrows, -⟩ | ⟨f, -, rfl⟩
    · have hrange : spriteInRange s n := ((s.memRead_ok_iff ..).1 hrows).1
      cases (exec_opDxyn_of_inRange x y hrange).symm.trans h
      simp [hs, notes_spriteBlit]
    · exact absurd rfl hsame

/-- A cycle that ran an instruction: a completed one ends with its tone end, and the others leave ST and emit nothing. -/
theorem endCycle_tonesOnStop {i : Instr} {s u : State} (hrun : s.status = .run) (h : exec i s.clearEvents = .next u) :
    TonesOnStop s.st (u.endCycle s.st) := by
  by_cases hu : u.status = .run
  · rw [State.endCycle_of_run _ hu]
    refine toneEnd_tonesOnStop _ ?_
    rw [State.cycleTick_events]
    exact exec_emits_no_toneEnd h List.not_mem_nil
  · rw [State.endCycle_of_not_run _ hu]
    rcases exec_keeps_waits_or_raises h with hkeep | ⟨x, -, rfl⟩ | ⟨f, rfl⟩
    · exact absurd (hkeep.trans hrun) hu
    · exact tonesOnStop_of_silent rfl List.not_mem_nil
    · exact tonesOnStop_of_silent rfl List.not_mem_nil

theorem completeWait_tonesOnStop (s : State) (x k : Nibble) : TonesOnStop s.st (s.completeWait x k) :=
  toneEnd_tonesOnStop _ (by simp)

/-- Every step, in every STATUS (R88, R89, R156). -/
theorem step_tonesOnStop {s t : State} (h : step s = .next t) : TonesOnStop s.st t := by
  have hidle : TonesOnStop s.st s.clearEvents := tonesOnStop_of_silent rfl List.not_mem_nil
  cases hs : s.status with
  | run =>
    rw [step_of_run hs] at h
    rcases runCycle_cases h with ⟨-, rfl⟩ | ⟨-, -, rfl⟩ | ⟨-, i, u, -, hu, rfl⟩
    · exact tonesOnStop_of_silent rfl List.not_mem_nil
    · exact tonesOnStop_of_silent rfl List.not_mem_nil
    · exact endCycle_tonesOnStop hs hu
  | wait x cap =>
    cases (step_of_wait hs).symm.trans h
    cases cap with
    | none => exact hidle
    | some k => exact completeWait_tonesOnStop s x k
  | fault r =>
    cases (step_of_fault hs).symm.trans h
    exact hidle
  | halt =>
    cases (step_of_halt hs).symm.trans h
    exact hidle

end Sys2Proof.Machine
end

section
/-! PROOFS. The timers: their ticks, their instructions, `TimerTick` and the tone end (spec/45_timers_input.md R143 to R145, R152
to R156). -/

namespace Sys2Proof.Machine

/-- Settles O24, by induction on the number of ticks. -/
theorem ticksCountDownAndClamp : Obligations.TicksCountDownAndClamp := by
  intro n s
  induction n with
  | zero => exact ⟨rfl, rfl, changesOnly_refl _ s⟩
  | succ n ih =>
    obtain ⟨hdt, hst, hframe⟩ := ih
    rw [Function.iterate_succ_apply', State.tick_dt, State.tick_st, toNat_tickTimer, toNat_tickTimer, hdt, hst]
    exact ⟨Nat.sub_sub .., Nat.sub_sub .., by simpa using hframe⟩

/-- Settles O26: a step's events hold a `ToneEnd` when ST has gone to 0, and else none. -/
theorem toneEndExactlyWhenSoundStops : Obligations.ToneEndExactlyWhenSoundStops := by
  intro s t h
  obtain ⟨es, hes, he⟩ := step_tonesOnStop h
  refine ⟨fun hstop => ⟨es, by rw [he, if_pos hstop], hes⟩, fun hstop => ?_⟩
  rw [he, if_neg hstop, List.append_nil]
  exact hes

/-- Settles O27: each of the three writes one piece before the PC advance. -/
theorem timerInstructions : Obligations.TimerInstructions :=
  fun s x => ⟨finish_setV s x s.dt, ⟨_, finish_false _, rfl, (pcAdvanced_two_iff _ _).2 rfl, by simp⟩,
    ⟨_, finish_false _, rfl, (pcAdvanced_two_iff _ _).2 rfl, by simp⟩⟩

/-! ### `TimerTick` -/

theorem timerTick_of_ticking {s : State} (hmode : s.config.timerMode = .external)
    (hs : s.status = .run ∨ ∃ x cap, s.status = .wait x cap) : s.timerTick = s.clearEvents.tick.toneEnd s.st := by
  rcases hs with hs | ⟨x, cap, hs⟩ <;> simp [State.timerTick, hmode, hs]

theorem timerTick_of_idle {s : State}
    (h : s.config.timerMode = .perCycle ∨ s.status = .halt ∨ ∃ r, s.status = .fault r) : s.timerTick = s.clearEvents := by
  cases hmode : s.config.timerMode with
  | perCycle => simp [State.timerTick, hmode]
  | external => rcases h with h | h | ⟨r, h⟩ <;> simp_all [State.timerTick]

/-- Every state is one in which `TimerTick` ticks or one in which it does nothing. -/
theorem ticking_or_idle (s : State) :
    (s.config.timerMode = .external ∧ (s.status = .run ∨ ∃ x cap, s.status = .wait x cap)) ∨
      (s.config.timerMode = .perCycle ∨ s.status = .halt ∨ ∃ r, s.status = .fault r) := by
  cases s.config.timerMode <;> cases s.status <;> simp

theorem timerTick_events (s : State) :
    s.timerTick.events = if s.st ≠ 0#8 ∧ s.timerTick.st = 0#8 then [.toneEnd] else [] := by
  rcases ticking_or_idle s with ⟨hmode, hs⟩ | h
  · rw [timerTick_of_ticking hmode hs, State.toneEnd_events, State.toneEnd_st]
    rfl
  · simp [timerTick_of_idle h]

/-- Settles O22: a ticking `TimerTick` is a tick and its tone end, and an idle one only empties the events. -/
theorem timerTickTransaction : Obligations.TimerTickTransaction := by
  refine fun s => ⟨s.timerTick, rfl, timerTick_changesOnly s, fun hmode hs => ?_, fun h => ?_, timerTick_events s⟩
  · rw [timerTick_of_ticking hmode hs, State.toneEnd_dt, State.toneEnd_st]
    exact ⟨toNat_tickTimer s.dt, toNat_tickTimer s.st⟩
  · rw [timerTick_of_idle h]
    exact ⟨rfl, rfl⟩

end Sys2Proof.Machine
end

section
/-! PROOFS. The latch, the key wait, the key skips and `Shutdown` (spec/45_timers_input.md R146 to R151, R157, R158; R170). -/

namespace Sys2Proof.Machine

/-! ### `SetKey` -/

theorem setKey_keyAt (s : State) (code k : Nibble) (pressed : Bool) :
    (s.setKey code pressed).keyAt k = if k = code then pressed else s.keyAt k := by
  rw [← State.keyAt_setSlot s code k pressed]
  unfold State.setKey
  split
  case h_1 => split <;> rfl
  all_goals rfl

theorem setKey_events (s : State) (code : Nibble) (pressed : Bool) : (s.setKey code pressed).events = [] := by
  unfold State.setKey
  split
  case h_1 => split <;> rfl
  all_goals rfl

/-- While the core waits with nothing captured, a press of a released key is captured and no other `SetKey` is (R158). -/
theorem setKey_status_of_wait {s : State} {x : Nibble} (h : s.status = .wait x none) (code : Nibble) (pressed : Bool) :
    (s.setKey code pressed).status = .wait x (if pressed = true ∧ s.keyAt code = false then some code else none) := by
  by_cases hedge : pressed = true ∧ s.keyAt code = false
  · simp [State.setKey, h, hedge]
  · have : (pressed && !s.keyAt code) = false := by simpa using hedge
    simp [State.setKey, h, hedge, this]

/-- Settles O21: STATUS changes only on a press edge in WAIT(x, none). -/
theorem setKeyWritesSlotAndCapturesEdge : Obligations.SetKeyWritesSlotAndCapturesEdge := by
  refine fun s code pressed => ⟨s.setKey code pressed, rfl, fun k => setKey_keyAt s code k pressed,
    setKey_changesOnly s code pressed, setKey_events s code pressed, fun x hw hpress hup => ?_, fun h => ?_⟩
  · rw [setKey_status_of_wait hw, if_pos ⟨hpress, hup⟩]
  · by_cases hw : ∃ x, s.status = .wait x none
    · obtain ⟨x, hw⟩ := hw
      have hedge : ¬ (pressed = true ∧ s.keyAt code = false) := by
        rintro ⟨hpress, hup⟩
        simp [hw, hpress, hup] at h
      rw [setKey_status_of_wait hw, if_neg hedge, hw]
    · exact setKey_status_of_not_wait (not_exists.1 hw) code pressed

/-! ### The key wait -/

/-- Settles O28: the cycle that began the wait did not complete, so it ends where Fx0A left it. -/
theorem keyWaitSuspends : Obligations.KeyWaitSuspends := by
  refine fun s x => ⟨⟨_, finish_true _, rfl, by simp⟩, fun hs => ⟨s.clearEvents.setStatus (.wait x none), ?_, rfl, rfl,
    by simp, rfl⟩⟩
  exact step_of_exec hs (finish_true _)

/-- What the completing cycle of Fx0A leaves before its tick: the key in Vx, PC past the Fx0A, RUN (R150). -/
def State.storeKey (s : State) (x k : Nibble) : State :=
  ((s.clearEvents.setV x (zext8 k)).setPc (s.pc + 2#16)).setStatus .run

/-- The completing cycle ends as every completed cycle does. -/
theorem completeWait_eq_endCycle (s : State) (x k : Nibble) : s.completeWait x k = (s.storeKey x k).endCycle s.st := rfl

theorem toNat_getV_completeWait (s : State) (x k r : Nibble) :
    ((s.completeWait x k).getV r).toNat = if r = x then k.toNat else (s.getV r).toNat := by
  have hv : (s.completeWait x k).getV r = if r = x then zext8 k else s.getV r :=
    (endCycle_changesOnly (s.storeKey x k) s.st .v (by simp) r).trans (State.getV_setV s.clearEvents x r (zext8 k))
  rw [hv, apply_ite BitVec.toNat, toNat_zext8]

theorem toNat_completeWait_timers (s : State) (x k : Nibble) :
    (s.completeWait x k).dt.toNat = s.dt.toNat - (if s.config.timerMode = .perCycle then 1 else 0) ∧
      (s.completeWait x k).st.toNat = s.st.toNat - (if s.config.timerMode = .perCycle then 1 else 0) :=
  toNat_endCycle_timers (t := s.storeKey x k) s.st rfl

/-- Settles O29: the completing cycle stores the key, then ticks as a completed cycle. -/
theorem keyWaitCompletes : Obligations.KeyWaitCompletes := by
  intro s x k hs
  have hrun : (s.completeWait x k).status = .run := State.endCycle_status (s.storeKey x k) s.st
  have hpc : (s.completeWait x k).pc = s.pc + 2#16 := endCycle_changesOnly (s.storeKey x k) s.st .pc (by simp)
  obtain ⟨hdt, hst⟩ := toNat_completeWait_timers s x k
  refine ⟨s.completeWait x k, step_of_wait hs, toNat_getV_completeWait s x k, (pcAdvanced_two_iff _ _).2 hpc, hrun,
    response_runCycle_of_status hrun, completeWait_changesOnly s x k, fun hmode => ?_, fun hmode => ?_⟩
  · rw [if_pos hmode] at hdt hst
    exact ⟨hdt, hst⟩
  · rw [if_neg (by simp [hmode])] at hdt hst
    exact ⟨BitVec.eq_of_toNat_eq hdt, BitVec.eq_of_toNat_eq hst⟩

/-- Settles O30: the held key's press finds its slot down; the first edge is captured; a later one finds a key captured. -/
theorem keyWaitTakesFirstEdge : Obligations.KeyWaitTakesFirstEdge := by
  intro s x held first later hs hheld hfirst
  obtain ⟨t, ht, htwait, -, htframe, -⟩ := (keyWaitSuspends s x).2 hs
  have htkey (k : Nibble) : t.keyAt k = s.keyAt k := htframe .key (by simp) k
  obtain ⟨u, hu, hukey, huframe, -, -, hukeep⟩ := setKeyWritesSlotAndCapturesEdge t held true
  have huwait : u.status = .wait x none := (hukeep (.inr (.inr ((htkey held).trans hheld)))).trans htwait
  have hne : first ≠ held := by
    rintro rfl
    exact absurd (hheld.symm.trans hfirst) nofun
  have hup : u.keyAt first = false := by rw [hukey, if_neg hne, htkey, hfirst]
  obtain ⟨v, hv, -, hvframe, -, hvcapture, -⟩ := setKeyWritesSlotAndCapturesEdge u first true
  have hvwait : v.status = .wait x (some first) := hvcapture x huwait rfl hup
  obtain ⟨v', hv', -, hvframe', -, -, hvkeep⟩ := setKeyWritesSlotAndCapturesEdge v later true
  have hvwait' : v'.status = .wait x (some first) := (hvkeep (.inl fun _ => by simp [hvwait])).trans hvwait
  obtain ⟨w, hw, hregs, hwpc, hwrun, -⟩ := keyWaitCompletes v' x first hvwait'
  have hpc : v'.pc = s.pc :=
    (changesOnly_trans huframe (changesOnly_trans hvframe hvframe') .pc (by simp)).trans (htframe .pc (by simp))
  refine ⟨t, ht, u, hu, huwait, _, runTransactions_cons hv (runTransactions_cons hv' (runTransactions_cons (x := .runCycle) hw
    (runTransactions_nil w))), ?_, ?_, hwrun⟩
  · exact (hregs x).trans (if_pos rfl)
  · rw [pcAdvanced, ← hpc]
    exact hwpc

/-! ### The key skips -/

/-- An instruction that skips on the key Vx names, when Vx names one. -/
theorem keySkip_of_named {s : State} {x k : Nibble} (h : (s.getV x).toNat = k.toNat) (i : Instr) (taken : Nibble → Bool) :
    ∃ t, orRaise s i (keyIndex (s.getV x)) (fun k => skipIf (taken k) s) = .next t ∧
      pcAdvanced (if taken k = true then 4 else 2) s t ∧ changesOnly [.pc] s t := by
  rw [keyIndex_ok h, orRaise_ok]
  exact skipIf_advances (taken k) s

/-- The same when Vx names none (D15). -/
theorem keySkip_of_unnamed {s : State} {x : Nibble} (h : 0xF < (s.getV x).toNat) (i : Instr) (taken : Nibble → Bool) :
    orRaise s i (keyIndex (s.getV x)) (fun k => skipIf (taken k) s) =
      .next (s.raiseFatal ⟨.keyIndexOutOfRange, none⟩ (some (encode i))) := by
  rw [keyIndex_error h, orRaise_error]

/-- Settles O31: with a key named the two are skips on its slot and on the slot's negation; with none both fault. -/
theorem keySkips : Obligations.KeySkips := by
  refine fun s x => ⟨fun k hk => ⟨keySkip_of_named hk (.opEx9E x) s.keyAt, ?_⟩,
    fun h => ⟨keySkip_of_unnamed h (.opEx9E x) _, keySkip_of_unnamed h (.opExA1 x) _⟩⟩
  have hskip := keySkip_of_named hk (.opExA1 x) fun k => !s.keyAt k
  simp only [Bool.not_eq_true', ← Bool.not_eq_true, ite_not] at hskip
  exact hskip

/-! ### `Shutdown` -/

theorem shutdown_of_fault {s : State} {r : FaultRecord} (h : s.status = .fault r) : s.shutdown = s.clearEvents := by
  simp [State.shutdown, h]

theorem shutdown_of_not_fault {s : State} (h : ∀ r, s.status ≠ .fault r) :
    s.shutdown = s.clearEvents.setStatus .halt := by
  unfold State.shutdown
  split
  case h_1 r hr => exact absurd hr (h r)
  all_goals rfl

theorem shutdown_events (s : State) : s.shutdown.events = [] := by
  unfold State.shutdown
  split <;> rfl

/-- Settles O23, by whether a fault stands. -/
theorem shutdownHalts : Obligations.ShutdownHalts :=
  fun s => ⟨s.shutdown, rfl, shutdown_changesOnly s, shutdown_events s, fun _ h => by rw [shutdown_of_fault h]; exact h,
    fun h => by rw [shutdown_of_not_fault h]; rfl⟩

end Sys2Proof.Machine
end

section
/-! SUPPORT. A checked operation that raised a fatal error: which one, and what its check found (R10, R29, R146). -/

namespace Sys2Proof.Machine

theorem State.push_error {s : State} {a : Word} {f : Fatal} (h : s.push a = .error f) :
    s.sp = 16 ∧ f = ⟨.stackOverflow, none⟩ := by
  rcases s.push_cases a with ⟨_, he⟩ | ⟨hsp, he⟩ <;> cases he.symm.trans h
  exact ⟨Fin.ext hsp, rfl⟩

theorem State.pop_error {s : State} {f : Fatal} (h : s.pop = .error f) : s.sp = 0 ∧ f = ⟨.stackUnderflow, none⟩ := by
  rcases s.pop_cases with ⟨_, he⟩ | ⟨hsp, he⟩ <;> cases he.symm.trans h
  exact ⟨Fin.ext hsp, rfl⟩

theorem keyIndex_error_cases {b : Byte} {f : Fatal} (h : keyIndex b = .error f) :
    0xF < b.toNat ∧ f = ⟨.keyIndexOutOfRange, none⟩ := by
  rcases keyIndex_cases b with ⟨_, -, he⟩ | ⟨hb, he⟩ <;> cases he.symm.trans h
  exact ⟨hb, rfl⟩

/-- A read that raised had a byte to read, and one of its bytes lies above 0xFFF. -/
theorem State.memRead_error_range {s : State} {a n : Nat} {f : Fatal} (h : s.memRead a n = .error f) :
    0 < n ∧ 0xFFF < a + n - 1 := by
  by_contra hin
  cases ((s.memRead_ok_iff a n _).2 ⟨by omega, rfl⟩).symm.trans h

/-- A store that raised had a byte to store, and either passes 0xFFF or begins in the font. -/
theorem State.memWrite_error {s : State} {a : Nat} {bs : List Byte} {f : Fatal} (hlen : bs.length ≤ 16)
    (h : s.memWrite a bs = .error f) :
    0 < bs.length ∧ (0xFFF < a + bs.length - 1 ∧ f = ⟨.addressOutOfRange, some (max a 0x1000)⟩ ∨
      a < 0x50 ∧ f = ⟨.fontWrite, some a⟩) := by
  have hbad : 0 < bs.length ∧ (0xFFF < a + bs.length - 1 ∨ a < 0x50) := by
    by_contra hok
    cases ((s.memWrite_ok_iff _ a bs).2 ⟨by omega, rfl⟩).symm.trans h
  obtain ⟨h0, hrange | hfont⟩ := hbad
  · cases (s.memWrite_range_error h0 hrange).symm.trans h
    exact ⟨h0, .inl ⟨hrange, rfl⟩⟩
  · cases (s.memWrite_font_error h0 hlen hfont).symm.trans h
    exact ⟨h0, .inr ⟨hfont, rfl⟩⟩

end Sys2Proof.Machine
end

section
/-! PROOFS. The fatal errors of execute and their causes (spec/60_exceptions.md R159 to R164). -/

namespace Sys2Proof.Machine

/-- The fatal errors an instruction can raise at `s`, each with the condition that raises it (R160 to R162, R49, R52, R146,
R147). `exec_faults_for_cause` ties it to the model. -/
inductive FatalCause (s : State) : Instr → Fatal → Prop where
  | callOnFullStack (nnn : Addr12) (hsp : s.sp = 16) : FatalCause s (.op2nnn nnn) ⟨.stackOverflow, none⟩
  | returnOnEmptyStack (hsp : s.sp = 0) : FatalCause s .op00EE ⟨.stackUnderflow, none⟩
  | spriteOutOfRange (x y n : Nibble) (h0 : 0 < n.toNat) (h : 0xFFF < s.dataAddr + n.toNat - 1) :
      FatalCause s (.opDxyn x y n) ⟨.addressOutOfRange, some (max s.dataAddr 0x1000)⟩
  | digitsOutOfRange (x : Nibble) (h : 0xFFF < s.dataAddr + 2) :
      FatalCause s (.opFx33 x) ⟨.addressOutOfRange, some (max s.dataAddr 0x1000)⟩
  | storeOutOfRange (x : Nibble) (h0 : 0 < x.toNat) (h : 0xFFF < s.dataAddr + x.toNat - 1) :
      FatalCause s (.opFx55 x) ⟨.addressOutOfRange, some (max s.dataAddr 0x1000)⟩
  | loadOutOfRange (x : Nibble) (h0 : 0 < x.toNat) (h : 0xFFF < s.dataAddr + x.toNat - 1) :
      FatalCause s (.opFx65 x) ⟨.addressOutOfRange, some (max s.dataAddr 0x1000)⟩
  | digitsIntoFont (x : Nibble) (h : s.dataAddr < 0x50) : FatalCause s (.opFx33 x) ⟨.fontWrite, some s.dataAddr⟩
  | storeIntoFont (x : Nibble) (h0 : 0 < x.toNat) (h : s.dataAddr < 0x50) :
      FatalCause s (.opFx55 x) ⟨.fontWrite, some s.dataAddr⟩
  | skipPressedOnNoKey (x : Nibble) (h : 0xF < (s.getV x).toNat) : FatalCause s (.opEx9E x) ⟨.keyIndexOutOfRange, none⟩
  | skipNotPressedOnNoKey (x : Nibble) (h : 0xF < (s.getV x).toNat) : FatalCause s (.opExA1 x) ⟨.keyIndexOutOfRange, none⟩

/-! ### Every fault of execute has one of the causes -/

/-- An instruction that goes on from a checked operation, and faulted though going on keeps STATUS, took the operation's
fatal error. -/
theorem orRaise_faults {α : Type} {i : Instr} {s t : State} {q : Except Fatal α} {k : α → Result} {r : FaultRecord}
    (hs : s.unfaulted) (h : orRaise s i q k = .next t) (ht : t.status = .fault r)
    (hk : ∀ a, q = .ok a → k a = .next t → t.status = s.status) :
    ∃ f, q = .error f ∧ r = ⟨f.kind, s.pc, some (encode i), f.addr⟩ := by
  rcases orRaise_cases h with ⟨a, ha, hka⟩ | ⟨f, hf, rfl⟩
  · exact absurd ((hk a ha hka).symm.trans ht) (hs r)
  · cases ht
    exact ⟨f, hf, rfl⟩

section
variable {s t : State} {i : Instr} {r : FaultRecord} (hs : s.unfaulted) (ht : t.status = .fault r)
include hs ht

/-- A skip on the key Vx names that faulted: Vx names none. -/
theorem keySkip_faults {x : Nibble} {taken : Nibble → Bool}
    (h : orRaise s i (keyIndex (s.getV x)) (fun k => skipIf (taken k) s) = .next t) :
    0xF < (s.getV x).toNat ∧ r = ⟨.keyIndexOutOfRange, s.pc, some (encode i), none⟩ := by
  obtain ⟨f, hf, hr⟩ := orRaise_faults hs h ht fun k _ hk => by cases hk; rfl
  obtain ⟨hkey, rfl⟩ := keyIndex_error_cases hf
  exact ⟨hkey, hr⟩

/-- A store at I that faulted: one of its two checks failed. -/
theorem store_faults {bs : List Byte} (hlen : bs.length ≤ 16)
    (h : orRaise s i (s.memWrite s.dataAddr bs) (finish false) = .next t) :
    0 < bs.length ∧ (0xFFF < s.dataAddr + bs.length - 1 ∧
        r = ⟨.addressOutOfRange, s.pc, some (encode i), some (max s.dataAddr 0x1000)⟩ ∨
      s.dataAddr < 0x50 ∧ r = ⟨.fontWrite, s.pc, some (encode i), some s.dataAddr⟩) := by
  obtain ⟨f, hf, hr⟩ := orRaise_faults hs h ht fun u hu hk => by
    obtain ⟨-, rfl⟩ := (s.memWrite_ok_iff ..).1 hu
    cases hk
    rfl
  obtain ⟨h0, ⟨hrange, rfl⟩ | ⟨hfont, rfl⟩⟩ := State.memWrite_error hlen hf
  · exact ⟨h0, .inl ⟨hrange, hr⟩⟩
  · exact ⟨h0, .inr ⟨hfont, hr⟩⟩

end

/-- An execute stage that faults has met a cause, and its record is that of the cause's fatal error. -/
theorem exec_faults_for_cause {i : Instr} {s t : State} {r : FaultRecord} (hs : s.unfaulted) (h : exec i s = .next t)
    (ht : t.status = .fault r) : ∃ f, FatalCause s i f ∧ r = ⟨f.kind, s.pc, some (encode i), f.addr⟩ := by
  have hne : t.status ≠ s.status := fun e => hs r (e.symm.trans ht)
  rcases exec_status_cases h hne with ⟨x, -, hw⟩ | ⟨-, hi⟩
  · cases hw.symm.trans ht
  rcases Instr.mayRaise_cases hi with rfl | ⟨nnn, rfl⟩ | ⟨x, y, n, rfl⟩ | ⟨x, rfl | rfl | rfl | rfl | rfl⟩
  · obtain ⟨f, hf, hr⟩ := orRaise_faults hs h ht fun (a, u) hu hk =>
      (exec00EE_completes hu (by cases hk; rfl)).frame .status (by simp [Instr.writes])
    obtain ⟨hsp, rfl⟩ := State.pop_error hf
    exact ⟨_, .returnOnEmptyStack hsp, hr⟩
  · obtain ⟨f, hf, hr⟩ := orRaise_faults hs h ht fun u hu hk =>
      (exec2nnn_completes hu (by cases hk; rfl)).frame .status (by simp [Instr.writes])
    obtain ⟨hsp, rfl⟩ := State.push_error hf
    exact ⟨_, .callOnFullStack nnn hsp, hr⟩
  · obtain ⟨f, hf, hr⟩ := orRaise_faults hs h ht fun rows _ hk => by cases hk; rfl
    obtain ⟨h0, hrange⟩ := State.memRead_error_range hf
    cases State.memRead_error_cases hf
    exact ⟨_, .spriteOutOfRange x y n h0 hrange, hr⟩
  · obtain ⟨hkey, hr⟩ := keySkip_faults hs ht h
    exact ⟨_, .skipPressedOnNoKey x hkey, hr⟩
  · obtain ⟨hkey, hr⟩ := keySkip_faults (taken := fun k => !s.keyAt k) hs ht h
    exact ⟨_, .skipNotPressedOnNoKey x hkey, hr⟩
  · obtain ⟨-, ⟨hrange, hr⟩ | ⟨hfont, hr⟩⟩ := store_faults (bs := bcdDigits (s.getV x)) hs ht (by simp) h
    · exact ⟨_, .digitsOutOfRange x hrange, hr⟩
    · exact ⟨_, .digitsIntoFont x hfont, hr⟩
  · have hlen : (s.firstRegs x.toNat).length = x.toNat := s.length_firstRegs x.toNat
    have hfault := store_faults hs ht (hlen.trans_le (Nat.le_of_lt x.isLt)) h
    rw [hlen] at hfault
    obtain ⟨h0, ⟨hrange, hr⟩ | ⟨hfont, hr⟩⟩ := hfault
    · exact ⟨_, .storeOutOfRange x h0 hrange, hr⟩
    · exact ⟨_, .storeIntoFont x h0 hfont, hr⟩
  · obtain ⟨f, hf, hr⟩ := orRaise_faults hs h ht fun bs _ hk => by
      cases hk
      show (s.setRegsFrom 0 bs).status = s.status
      rw [State.setRegsFrom_eq]
    obtain ⟨h0, hrange⟩ := State.memRead_error_range hf
    cases State.memRead_error_cases hf
    exact ⟨_, .loadOutOfRange x h0 hrange, hr⟩

/-! ### The causes of each kind -/

section
variable {s : State} {i : Instr} {f : Fatal} (h : FatalCause s i f)
include h

theorem FatalCause.stackOverflow_iff : f.kind = .stackOverflow ↔ (∃ nnn, i = .op2nnn nnn) ∧ s.sp = 16 := by
  cases h <;> simp [*]

theorem FatalCause.stackUnderflow_iff : f.kind = .stackUnderflow ↔ i = .op00EE ∧ s.sp = 0 := by
  cases h <;> simp [*]

/-- A store that begins in the font stays far below 0xFFF, so an instruction has one kind of fault at a state. -/
theorem FatalCause.addressOutOfRange_iff : f.kind = .addressOutOfRange ↔
    (∃ x y n, i = .opDxyn x y n ∧ 0 < n.toNat ∧ 0xFFF < s.dataAddr + n.toNat - 1) ∨
    (∃ x, i = .opFx33 x ∧ 0xFFF < s.dataAddr + 2) ∨
    (∃ x, (i = .opFx55 x ∨ i = .opFx65 x) ∧ 0 < x.toNat ∧ 0xFFF < s.dataAddr + x.toNat - 1) := by
  cases h
  case storeIntoFont x h0 h =>
    have hx : x.toNat < 16 := x.isLt
    simp; omega
  case digitsIntoFont => simp; omega
  all_goals simp [*]

theorem FatalCause.fontWrite_iff : f.kind = .fontWrite ↔
    (∃ x, i = .opFx33 x ∨ (i = .opFx55 x ∧ 0 < x.toNat)) ∧ s.dataAddr < 0x50 := by
  cases h
  case storeOutOfRange x h0 h =>
    have hx : x.toNat < 16 := x.isLt
    simp; omega
  case digitsOutOfRange => simp; omega
  all_goals simp [*]

theorem FatalCause.keyIndexOutOfRange_iff :
    f.kind = .keyIndexOutOfRange ↔ ∃ x, (i = .opEx9E x ∨ i = .opExA1 x) ∧ 0xF < (s.getV x).toNat := by
  cases h <;> simp [*]

theorem FatalCause.kind_ne_unknownOpcode : f.kind ≠ .unknownOpcode := by
  cases h <;> simp

theorem FatalCause.addr_isSome_iff : f.addr.isSome = true ↔ f.kind = .addressOutOfRange ∨ f.kind = .fontWrite := by
  cases h <;> simp

end

/-- Settles O8: a fault of execute has one of the listed causes, and each clause reads off the causes of its kind. -/
theorem fatalKindsAndTheirCauses : Obligations.FatalKindsAndTheirCauses := by
  intro i s t r hs h ht
  obtain ⟨f, hf, rfl⟩ := exec_faults_for_cause hs h ht
  exact ⟨hf.stackOverflow_iff, hf.stackUnderflow_iff, hf.addressOutOfRange_iff, hf.fontWrite_iff,
    hf.keyIndexOutOfRange_iff, hf.kind_ne_unknownOpcode, hf.addr_isSome_iff⟩

end Sys2Proof.Machine
end

section
/-! PROOFS. The first cycle after reset (R43, R163, R179; D6). -/

namespace Sys2Proof.Machine

/-- Memory above the font is zero after reset, and PC is there, at 0x200 (R43). -/
theorem nextWord_resetWith (c : Config) : (State.resetWith c).nextWord = 0x0000#16 := by
  show (State.resetWith c).readByte 0x200 ++ (State.resetWith c).readByte 0x201 = 0x0000#16
  rw [readByte_resetWith_zero c (by decide), readByte_resetWith_zero c (by decide)]
  decide

theorem decode_zeroWord : decode 0x0000#16 = .error (.unknownOpcode 0x0000#16) := by decide

theorem step_resetWith (c : Config) : step (State.resetWith c) =
    .next ((State.resetWith c).clearEvents.raiseFatal ⟨.unknownOpcode, none⟩ (some 0x0000#16)) := by
  have hpc : (State.resetWith c).pc.toNat + 1 ≤ 0xFFF := show (0x200#16).toNat + 1 ≤ 0xFFF by decide
  have hword : decode (State.resetWith c).nextWord = .error (.unknownOpcode 0x0000#16) := by
    rw [nextWord_resetWith, decode_zeroWord]
  rw [step_of_run rfl, runCycle_unknown hpc hword, nextWord_resetWith]

/-- Settles O19: the word at 0x200 is 0x0000, which the decoder rejects, so the cycle takes the error at the state after
reset. -/
theorem cycleAfterResetFaults : Obligations.CycleAfterResetFaults :=
  fun c => ⟨_, step_resetWith c, rfl, by simp⟩

end Sys2Proof.Machine
end
